-- ==== Sys2Proof/Word.lean ====
section
/-! DEFINITION. The plainest types every file shares: a byte of the Control Line and a grey level. -/

namespace Sys2Proof

/-- One byte, as the Control Line and the bank image carry it (R145, R193). -/
abbrev Byte := BitVec 8

/-- A grey level, 0 (black) to 15 (white) (chapter 1.2). -/
abbrev Level := Fin 16

end Sys2Proof
end

