-- ==== Sys2Proof/Syntax.lean ====
section
/-! DEFINITION. The commands of the block: one constructor for each row of spec/opcode_table.json, in the table's order.
A row carries an operand only where its step takes something from outside the part: a received byte (R146), the sensor's
result (R84), and, since both banks may be VERIFYING at once (R68), the bank whose verification ends. A request's own operands stand in the payload of
its Request Table entry (R154), so the rows of the dispatcher carry none. -/

namespace Sys2Proof

/-- The name of a waveform bank (R62). -/
inductive BankId where
  | a
  | b
deriving DecidableEq, Repr

/-- A result of the internal temperature sensor, in degrees Celsius, before it is rounded (R84): the exact
quotient `num / den`, so that no resolution is presumed. It is a number only when `den` is not 0. -/
structure SensorResult where
  num : Int
  den : Nat
deriving DecidableEq, Repr

/-- The steps of the ZT806, one constructor per row of spec/opcode_table.json. -/
inductive Instr where
  | frame
  | gapTimeout
  | hello
  | unknownCode
  | getStatus
  | getParameter
  | setParameter
  | restart
  | grantNotices
  | submitUpdate
  | cancelUpdate
  | queryUpdate
  | halt
  | resume
  | bankOpen
  | bankData
  | bankVerify
  | bankActivate
  | bankErase
  | temperatureReport
  | clearFault
  | loadOpen
  | loadData
  | loadClose
  | readPixels
  | fill
  | copy
  | jobCompletion
  | verificationComplete (bank : BankId)
  | frameBoundary
  | powerGoodAssert
  | powerGoodLoss
  | riseTimerExpiry
  | settleTimerExpiry
  | holdTimerExpiry
  | fallTimerExpiry
  | conversionStart
  | conversionComplete (result : SensorResult)
  | ageRise
  | readingBecomesStale
  | replyBegin
  | replySent
  | noticeBegin
  | noticeSent
  | pinReset
  | startUp
  | startUpEnd
  | receivedByte (value : Byte)
  | jobWritesPixel
deriving DecidableEq, Repr

end Sys2Proof
end

