-- ==== Sys2Proof/Decode.lean ====
section
/-! DEFINITION. The commands of this block have no encoding as words: no row of spec/opcode_table.json gives bits. What
the part does decode, the frames of the Control Line and their payloads, stands in Machine/Operands.lean. -/

namespace Sys2Proof

/-- The command a word of `nbits` bits spells by the opcode table: none, since no row of the table gives bits. -/
def decodeTableWord (_nbits _w : Nat) : Option Instr := none

end Sys2Proof
end

