-- ==== Sys2Proof/Config.lean ====
section
/-! DEFINITION. What the part fixes: the capacities of its blocks and the values of its identity; and the one free value
of the model, a fact of the incoming line. The spec leaves no result of a step open (DEDUCED, safe:
notes/assumptions/2.md). -/

namespace Sys2Proof.Config

/-- Panel columns (chapter 1.1). -/
@[reducible, simp] def panelWidth : Nat := 800
/-- Panel rows (chapter 1.1). -/
@[reducible, simp] def panelHeight : Nat := 600
/-- Update Queue entries (R22, R151). -/
@[reducible, simp] def queueCapacity : Nat := 16
/-- Raster jobs in the job queue (R130, R151). -/
@[reducible, simp] def jobCapacity : Nat := 4
/-- Request Table entries (R154, R151). -/
@[reducible, simp] def tableCapacity : Nat := 8
/-- Reply Cache entries (R156, R151). -/
@[reducible, simp] def cacheCapacity : Nat := 8
/-- Notice Queue entries (R166, R151). -/
@[reducible, simp] def noticeCapacity : Nat := 16
/-- An immediate answer joins the reply queue only below this length (R161). -/
@[reducible, simp] def answerLimit : Nat := 16
/-- Bytes a waveform bank holds (R62, R151). -/
@[reducible, simp] def bankBytes : Nat := 65536
/-- Greatest area of a Read Pixels (R123). -/
@[reducible, simp] def readLimit : Nat := 1000
/-- Greatest pixel count of a Load Data (R119). -/
@[reducible, simp] def loadLimit : Nat := 2032
/-- Greatest value of a 16-bit counter that stops rising (R86, R149, R166). -/
@[reducible, simp] def counter16Max : Nat := 65535
/-- Greatest value of a 32-bit counter (R113, R130). -/
@[reducible, simp] def counter32Max : Nat := 4294967295

/-- Vendor code, naming Holfarin (R186, R190). -/
@[reducible, simp] def vendorCode : Nat := 0x0D31
/-- Part code, naming the ZT806 (R186, R190). -/
@[reducible, simp] def partCode : Nat := 0x0806
/-- Silicon revision (R190). -/
@[reducible, simp] def siliconRevision : Nat := 1
/-- Protocol version (R151, R190). -/
@[reducible, simp] def protocolVersion : Nat := 1
/-- Largest payload (R151, R190). -/
@[reducible, simp] def largestPayload : Nat := 1024

/-- R185: whether a character is in progress on the incoming line when the start-up of this number ends. A free value: no
statement may rest on what it is (DESIGN CHOICE, safe: notes/assumptions/23.md). -/
opaque characterInProgress : Nat → Bool

end Sys2Proof.Config
end

