-- ==== Sys2Proof/Machine/Geometry.lean ====
section
/-! DEFINITION. Rectangles of the panel: validity, area, containment and overlap (chapter 1), and the scan orders of a
load window (chapter 7.2). -/

namespace Sys2Proof.Machine

/-- A rectangle as a request's field gives it (R189): four numbers, not yet judged. -/
structure Rect where
  col : Nat
  row : Nat
  width : Nat
  height : Nat
deriving DecidableEq, Repr

/-- R2: the four conditions of a valid rectangle; the sums are exact. -/
def rectValid (r : Rect) : Bool :=
  decide (1 ≤ r.width) && decide (r.width ≤ 800) && decide (1 ≤ r.height) && decide (r.height ≤ 600) &&
    decide (r.col + r.width ≤ 800) && decide (r.row + r.height ≤ 600)

/-- A rectangle held inside the part, valid because it was accepted (R2). -/
abbrev Region := { r : Rect // rectValid r = true }

/-- R1: width times height. -/
def rectArea (r : Rect) : Nat := r.width * r.height

/-- R1: whether the pixel (x, y) lies in the rectangle. -/
def rectContains (r : Rect) (x y : Nat) : Bool :=
  decide (r.col ≤ x) && decide (x < r.col + r.width) && decide (r.row ≤ y) && decide (y < r.row + r.height)

/-- R5: the column spans share a column and the row spans share a row. -/
def rectsOverlap (r q : Rect) : Bool :=
  decide (r.col < q.col + q.width) && decide (q.col < r.col + r.width) &&
    decide (r.row < q.row + q.height) && decide (q.row < r.row + r.height)

/-- R2: a rectangle from outside, accepted or refused. -/
def regionOf (r : Rect) : Option Region :=
  if h : rectValid r = true then some ⟨r, h⟩ else none

/-- R1: the `k`-th pixel of a rectangle in row-major order from the top left. -/
def rowMajorPixel (r : Rect) (k : Nat) : Nat × Nat :=
  (r.col + k % r.width, r.row + k / r.width)

/-- R1: the pixels of a rectangle in row-major order from the top left. -/
def rectPixels (r : Rect) : List (Nat × Nat) :=
  (List.range (rectArea r)).map (rowMajorPixel r)

/-- R114: orders 4 to 7 are column-major. -/
def orderColumnMajor (order : Fin 8) : Bool := decide (4 ≤ order.val)

/-- R114: the odd orders run right to left. -/
def orderRightToLeft (order : Fin 8) : Bool := decide (order.val % 2 = 1)

/-- R114: orders 2, 3, 6 and 7 run bottom to top. -/
def orderBottomToTop (order : Fin 8) : Bool := decide (order.val / 2 % 2 = 1)

/-- R114: the pixel at which the cursor stands in window `r` under `order` with written count `k`. -/
def cursorPixel (r : Rect) (order : Fin 8) (k : Nat) : Nat × Nat :=
  let across := if orderColumnMajor order then k / r.height else k % r.width
  let down := if orderColumnMajor order then k % r.height else k / r.width
  let dx := if orderRightToLeft order then r.width - 1 - across else across
  let dy := if orderBottomToTop order then r.height - 1 - down else down
  (r.col + dx, r.row + dy)

end Sys2Proof.Machine
end

