-- ==== Sys2Proof/Machine/Planes.lean ====
section
/-! DEFINITION. The arrays of the Image Store (chapter 1) as plain data in one canonical form.

A plane holds 480,000 values. It is kept as run lists: a list of (count, value) pairs, each count above 0 and no two
neighbours with the same value, so that equal planes are equal data. A plane is a run list of rows, and a row is a run
list of pixel values. The operations below keep the form (Laws/Planes.lean). DESIGN CHOICE, safe: notes/assumptions/9.md. -/

namespace Sys2Proof.Machine

/-- A run list: `count` copies of each value in turn. -/
abbrev Runs (α : Type) := List (Nat × α)

/-- A plane, rows from the top, each row from the left. -/
abbrev Plane (α : Type) := Runs (Runs α)

/-- How many values a run list stands for. -/
def runsLength {α : Type} : Runs α → Nat
  | [] => 0
  | (n, _) :: t => n + runsLength t

/-- The value at a position. -/
def runAt {α : Type} : Runs α → Nat → Option α
  | [], _ => none
  | (n, v) :: t, i => if i < n then some v else runAt t (i - n)

/-- `n` copies of `v` put in front, in canonical form. -/
def runCons {α : Type} [DecidableEq α] (n : Nat) (v : α) (rs : Runs α) : Runs α :=
  if n = 0 then rs
  else
    match rs with
    | [] => [(n, v)]
    | (m, w) :: t => if v = w then (n + m, w) :: t else (n, v) :: (m, w) :: t

/-- The first `k` values. -/
def runTake {α : Type} [DecidableEq α] : Nat → Runs α → Runs α
  | _, [] => []
  | k, (n, v) :: t => if k ≤ n then runCons k v [] else runCons n v (runTake (k - n) t)

/-- All but the first `k` values. -/
def runDrop {α : Type} : Nat → Runs α → Runs α
  | _, [] => []
  | k, (n, v) :: t => if k < n then (n - k, v) :: t else runDrop (k - n) t

/-- One run list after another. -/
def runAppend {α : Type} [DecidableEq α] : Runs α → Runs α → Runs α
  | [], bs => bs
  | (n, v) :: t, bs => runCons n v (runAppend t bs)

/-- A function applied to every value. -/
def runMap {α β : Type} [DecidableEq β] (f : α → β) : Runs α → Runs β
  | [] => []
  | (n, v) :: t => runCons n (f v) (runMap f t)

/-- A function applied to the values of two run lists position by position, as far as both reach. -/
def runZip {α β γ : Type} [DecidableEq β] [DecidableEq γ] (f : α → β → γ) : Runs α → Runs β → Runs γ
  | [], _ => []
  | (n, v) :: t, bs => runAppend (runMap (f v) (runTake n bs)) (runZip f t (runDrop n bs))

/-- The positions from `lo` up to `hi` replaced by `mid`. -/
def runSplice {α : Type} [DecidableEq α] (lo hi : Nat) (mid rs : Runs α) : Runs α :=
  runAppend (runTake lo rs) (runAppend mid (runDrop hi rs))

/-- The number of positions whose value passes a test. -/
def runCount {α : Type} (p : α → Bool) : Runs α → Nat
  | [] => 0
  | (n, v) :: t => (if p v then n else 0) + runCount p t

/-- The canonical form: counts above 0 and no two neighbours equal. -/
def runsCanonical {α : Type} [DecidableEq α] : Runs α → Bool
  | [] => true
  | [(n, _)] => decide (0 < n)
  | (n, v) :: (m, w) :: t => decide (0 < n) && decide (v ≠ w) && runsCanonical ((m, w) :: t)

/-- A plane of one value, `width` by `height`. -/
def planeOf {α : Type} [DecidableEq α] (width height : Nat) (v : α) : Plane α :=
  runCons height (runCons width v []) []

/-- The value of pixel (x, y). -/
def planeAt {α : Type} (p : Plane α) (x y : Nat) : Option α :=
  (runAt p y).bind fun row => runAt row x

/-- The values of a plane over a rectangle, as a plane of the rectangle's size. -/
def planeCrop {α : Type} [DecidableEq α] (r : Rect) (p : Plane α) : Plane α :=
  runMap (fun row => runTake r.width (runDrop r.col row)) (runTake r.height (runDrop r.row p))

/-- An image of a rectangle's size written over that rectangle of a plane. -/
def planePaste {α : Type} [DecidableEq α] (r : Rect) (img p : Plane α) : Plane α :=
  runSplice r.row (r.row + r.height)
    (runZip (fun line row => runSplice r.col (r.col + r.width) line row) img
      (runTake r.height (runDrop r.row p))) p

/-- A function applied to every pixel. -/
def planeMap {α β : Type} [DecidableEq β] (f : α → β) (p : Plane α) : Plane β :=
  runMap (runMap f) p

/-- One value written over a rectangle. -/
def planeFill {α : Type} [DecidableEq α] (r : Rect) (v : α) (p : Plane α) : Plane α :=
  planePaste r (planeOf r.width r.height v) p

/-- One value written at pixel (x, y). -/
def planeSet {α : Type} [DecidableEq α] (x y : Nat) (v : α) (p : Plane α) : Plane α :=
  planePaste ⟨x, y, 1, 1⟩ (planeOf 1 1 v) p

/-- The number of pixels at which two planes of one size differ. -/
def planeDiffCount {α : Type} [DecidableEq α] (p q : Plane α) : Nat :=
  runTotal (runZip (fun a b => runCount id (runZip (fun v w => decide (v ≠ w)) a b)) p q)
where
  /-- The sum of the values of a run list of numbers. -/
  runTotal : Runs Nat → Nat
    | [] => 0
    | (n, v) :: t => n * v + runTotal t

/-- Whether some pixel of a plane holds the value. -/
def planeHolds {α : Type} [DecidableEq α] (v : α) (p : Plane α) : Bool :=
  p.any fun row => row.2.any fun run => decide (run.2 = v)

/-- The canonical form of a plane `width` by `height`: memory that is equal is equal data. -/
def planeWf {α : Type} [DecidableEq α] (width height : Nat) (p : Plane α) : Bool :=
  runsCanonical p && decide (runsLength p = height) &&
    p.all fun row => runsCanonical row.2 && decide (runsLength row.2 = width)

end Sys2Proof.Machine
end

