-- ==== Sys2Proof/Machine/State.lean ====
section
/-! DEFINITION. Everything the spec gives the ZT806 to hold, as plain data, and the part after a pin reset. -/

namespace Sys2Proof.Machine

/-! ### Image Store -/

/-- A value of Target or Shown: a level, or UNKNOWN (chapter 1.2). -/
inductive Pixel where
  | level (l : Level)
  | unknown
deriving DecidableEq, Repr

/-! ### Parameter Table -/

/-- TEMP_SOURCE (R82, R176). -/
inductive TempSource where
  | fromSensor
  | fromHost
deriving DecidableEq, Repr

/-- The nine parameters (R176). -/
structure Params where
  frameRate : Nat
  riseLimit : Nat
  settle : Nat
  holdTime : Nat
  fallTime : Nat
  tempSource : TempSource
  samplePeriod : Nat
  staleLimit : Nat
  lineRate : Nat
deriving DecidableEq, Repr

/-! ### Update Queue -/

/-- The collision policy of an update (R19). -/
inductive Policy where
  | wait
  | refuse
deriving DecidableEq, Repr

/-- An entry of the Update Queue (R22). `rasterFence` is absent or a job number (R23); `loadFence` is R24's. -/
structure Entry where
  id : Nat
  rect : Region
  mode : Nat
  policy : Policy
  skipUnchanged : Bool
  notifyStart : Bool
  rasterFence : Option Nat
  loadFence : Bool
deriving DecidableEq, Repr

/-! ### Drive Table -/

/-- The fields of an ARMED or DRIVING slot (R39). `frames` is the frame count F, `index` the frame index. -/
structure Update where
  id : Nat
  rect : Region
  mode : Nat
  bank : BankId
  band : Nat
  frames : Nat
  index : Nat
  skipUnchanged : Bool
  notifyStart : Bool
  changed : Nat
deriving DecidableEq, Repr

/-- A drive slot (R39). -/
inductive Slot where
  | free
  | armed (u : Update)
  | driving (u : Update)
deriving DecidableEq, Repr

/-- The halt state (chapter 3.7). -/
inductive HaltState where
  | running
  | halting
  | halted
deriving DecidableEq, Repr

/-! ### Waveform Store -/

/-- The state of a bank (R62). -/
inductive BankState where
  | empty
  | loading
  | verifying
  | loaded
  | active
  | retiring
deriving DecidableEq, Repr

/-- What a Bank Open declares (R62, R65). -/
structure Declared where
  size : Nat
  crc : BitVec 32
deriving DecidableEq, Repr

/-- A waveform bank (R62). The received count is the length of `contents`: both are the bytes stored since Bank Open,
and both are nothing in EMPTY. -/
structure Bank where
  state : BankState
  contents : List Byte
  declared : Option Declared
  refCount : Nat
deriving DecidableEq, Repr

/-! ### Temperature Monitor -/

/-- A reading in whole degrees Celsius and its age in seconds (R82). -/
structure Reading where
  value : Int
  age : Nat
deriving DecidableEq, Repr

/-- The Temperature Monitor's own state (R82); the source is the TEMP_SOURCE parameter. `converting` is the conversion
state CONVERTING. `nextStart` is the next conversion start: none, or the number of seconds after the latest conversion
start at which it stands (DESIGN CHOICE, safe: notes/assumptions/3.md). -/
structure TempMonitor where
  reading : Option Reading
  converting : Bool
  nextStart : Option Nat
deriving DecidableEq, Repr

/-! ### Rail Sequencer and Frame Timer -/

/-- The rail state (R93). -/
inductive RailState where
  | off
  | rising
  | on
  | holding
  | falling
  | fault
deriving DecidableEq, Repr

/-- The rise phase (R93). -/
inductive RisePhase where
  | waiting
  | settling
deriving DecidableEq, Repr

/-- The rise timer (R93): absent, running with the RISE_LIMIT it started with, or expired. -/
inductive RiseTimer where
  | absent
  | running (ms : Nat)
  | expired
deriving DecidableEq, Repr

/-- The fault cause (R93). -/
inductive FaultCause where
  | railTimeout
  | powerLost
deriving DecidableEq, Repr

/-- The Rail Sequencer (R93). A timer that runs is held with the milliseconds it started with. `settleValue` is the
SETTLE that R97 fixes at the entry into RISING for the whole rise. `fastFall` is the fast-fall request PENDING. -/
structure Rails where
  state : RailState
  risePhase : Option RisePhase
  riseTimer : RiseTimer
  settleValue : Option Nat
  settleTimer : Option Nat
  holdTimer : Option Nat
  fallTimer : Option Nat
  fastFall : Bool
  faultCause : Option FaultCause
deriving DecidableEq, Repr

/-- The Frame Timer (R107): STOPPED, or RUNNING with the next boundary one period after the last, the period being
1000 / `rate` ms with the FRAME_RATE at that boundary (R108). -/
inductive FrameTimer where
  | stopped
  | running (rate : Nat)
deriving DecidableEq, Repr

/-! ### Pixel Loader -/

/-- An OPEN load session (R113); the cursor follows from these (R114). -/
structure LoadSession where
  window : Region
  order : Fin 8
  written : Nat
  discarded : Nat
deriving DecidableEq, Repr

/-! ### Raster Unit -/

/-- The operation of a job (R130). For a Copy, `dest` is the rectangle at the destination column and row with the
source's width and height (R133). -/
inductive JobKind where
  | fill (rect : Region) (level : Level)
  | copy (source dest : Region)
deriving DecidableEq, Repr

/-- QUEUED, or RUNNING with the written count (R130). `image` is the final image of the job's destination, fixed when
the job becomes RUNNING: for a Copy the levels its source held at that moment (R137) (DESIGN CHOICE, safe:
notes/assumptions/19.md). -/
inductive JobProgress where
  | queued
  | running (written : Nat) (image : Plane Level)
deriving DecidableEq, Repr

/-- A raster job (R130). -/
structure Job where
  number : Nat
  kind : JobKind
  progress : JobProgress
deriving DecidableEq, Repr

/-- The job counter (R130). -/
inductive JobCounter where
  | next (n : Nat)
  | exhausted
deriving DecidableEq, Repr

/-- The Raster Unit (R130). -/
structure Raster where
  jobs : List Job
  counter : JobCounter
  mark : Nat
deriving DecidableEq, Repr

/-! ### Notice Queue -/

/-- The result of an Update Ended notice (R167). -/
inductive EndResult where
  | done
  | halted
  | railFault
  | cancelled
  | modeAbsent
  | tempRange
  | unknownSource
deriving DecidableEq, Repr

/-- A notice: its kind and its fields, fixed when it joins (R166, R167). -/
inductive Notice where
  | updateStarted (id slot band frames : Nat)
  | updateEnded (id : Nat) (result : EndResult) (framesDriven changed : Nat)
  | railFault (cause : FaultCause) (previous : RailState)
  | tempStale (reading : Int) (age : Nat)
  | bankRetired (bank : BankId)
  | noticeLoss (count : Nat)
deriving DecidableEq, Repr

/-- The Notice Queue (R166). -/
structure NoticeQueue where
  items : List Notice
  credit : Nat
  lost : Nat
  seqCounter : Byte
deriving DecidableEq, Repr

/-! ### Control Line Interface -/

/-- The receiver (R146). `lenLow` is the first byte of LEN once held. `body` holds CLASS to the end of the payload as
far as received. `check` and `complete` are both R146's CHECK: `complete` has the second byte of the CRC as well, and
the FRAME step, which tests the frame, is due (DESIGN CHOICE, safe: notes/assumptions/4.md). -/
inductive Receiver where
  | hunt
  | length (lenLow : Option Byte)
  | body (len : Nat) (held : List Byte)
  | check (len : Nat) (held : List Byte) (crcLow : Option Byte)
  | complete (len : Nat) (held : List Byte) (crcLow crcHigh : Byte)
deriving DecidableEq, Repr

/-- What a deferred request waits for (R157). -/
inductive Work where
  | job (number : Nat)
  | verify (bank : BankId)
  | halt
deriving DecidableEq, Repr

/-- The state of a Request Table entry (R154). A DEFERRED entry names the work whose end answers it. -/
inductive RequestState where
  | waiting
  | executing
  | deferred (work : Work)
deriving DecidableEq, Repr

/-- An entry of the Request Table (R154). The payload is kept until the request executes. -/
structure Request where
  seq : Byte
  code : Byte
  payload : List Byte
  state : RequestState
  orphaned : Bool
deriving DecidableEq, Repr

/-- A reply: the SEQ and CODE of its request, and its payload, status byte first (R145, R190). -/
structure Reply where
  seq : Byte
  code : Byte
  payload : List Byte
deriving DecidableEq, Repr

/-- Whose reply a queued reply is (R161, R162): an entry's, an accepted Hello's, or one that is sent and forgotten. -/
inductive ReplyOrigin where
  | entry
  | hello
  | forgotten
deriving DecidableEq, Repr

/-- What follows the last byte of a reply (R162): nothing, a change of the line rate (R144), or the Restart (R183). -/
inductive ReplyEffect where
  | nothing
  | lineRate (baud : Nat)
  | restart
deriving DecidableEq, Repr

/-- A reply in the reply queue or on the line. -/
structure QueuedReply where
  reply : Reply
  origin : ReplyOrigin
  effect : ReplyEffect
deriving DecidableEq, Repr

/-- The transmitter (R162): idle, or sending a frame. `cacheable` is false for a reply begun before a reopening
Hello, which is not added to the Reply Cache. -/
inductive Transmitter where
  | idle
  | sendingReply (q : QueuedReply) (cacheable : Bool)
  | sendingNotice (seq : Byte) (n : Notice)
deriving DecidableEq, Repr

/-- The five link counters (R149). -/
structure LinkCounters where
  crc : Nat
  gap : Nat
  length : Nat
  cls : Nat
  nobuf : Nat
deriving DecidableEq, Repr

/-- The reset cause held by the Control Line Interface (R186). -/
inductive ResetCause where
  | pin
  | restart
deriving DecidableEq, Repr

/-- The Control Line Interface (chapter 9). `restartTaken` is the Restart interval (R182): the dispatcher has executed
a Restart that has not yet taken effect. `straddling`: a character was in progress at the end of start-up, and its byte,
not yet come, is discarded (R185) (DESIGN CHOICE, safe: notes/assumptions/23.md). -/
structure Link where
  receiver : Receiver
  sessionOpen : Bool
  resetCause : ResetCause
  table : List Request
  replies : List QueuedReply
  cache : List Reply
  counters : LinkCounters
  transmitter : Transmitter
  lineRate : Nat
  restartTaken : Bool
  straddling : Bool
deriving DecidableEq, Repr

/-! ### The whole part -/

/-- Whether the reset input is asserted, start-up is in progress, or neither (R184, R185). -/
inductive Phase where
  | resetHeld
  | startUp
  | running
deriving DecidableEq, Repr

/-- The ZT806. `pending` is the model's queue of commands, first in, first out. `powerGood` is the level of the
power-good input. `startUps` counts the start-ups that have ended: the model's own field, read by its one free value alone
(DESIGN CHOICE, safe: notes/assumptions/23.md). The BUSY and rail-enable outputs, the line output and the panel drive port follow from these fields
(Machine/Outputs.lean). -/
structure State where
  pending : List Instr
  phase : Phase
  powerGood : Bool
  startUps : Nat
  params : Params
  pendingPlane : Plane Level
  target : Plane Pixel
  shown : Plane Pixel
  queue : List Entry
  idCounter : Nat
  slots : Vector Slot 8
  halt : HaltState
  bankA : Bank
  bankB : Bank
  temp : TempMonitor
  rails : Rails
  frameTimer : FrameTimer
  load : Option LoadSession
  raster : Raster
  notices : NoticeQueue
  link : Link
deriving DecidableEq, Repr

/-- Why the part stops with a fault. -/
inductive Fault where
  /-- Raised by CONVERSION_COMPLETE alone, when its operand is no number (denominator 0). Safe: the sensor gives a
  number, so no run of the hardware has this step. -/
  | sensorResultNotANumber
deriving DecidableEq, Repr

/-- Why a command has no meaning. -/
inductive Refusal where
  /-- Raised by an arm of exec whose command has no meaning yet. Safe: nothing is claimed of it. No arm raises it. -/
  | notModelled (mnemonic : String)
deriving DecidableEq, Repr

/-! ### The part after a pin reset -/

/-- R176: the defaults. -/
def Params.default : Params where
  frameRate := 85
  riseLimit := 20
  settle := 5
  holdTime := 1000
  fallTime := 30
  tempSource := .fromSensor
  samplePeriod := 30
  staleLimit := 120
  lineRate := 115200

/-- R80: an EMPTY bank. -/
def Bank.none : Bank where
  state := .empty
  contents := []
  declared := Option.none
  refCount := 0

/-- R111: the rails OFF, every timer absent. -/
def Rails.reset : Rails where
  state := .off
  risePhase := none
  riseTimer := .absent
  settleValue := none
  settleTimer := none
  holdTimer := none
  fallTimer := none
  fastFall := false
  faultCause := none

/-- R149: all five counters 0. -/
def LinkCounters.zero : LinkCounters where
  crc := 0
  gap := 0
  length := 0
  cls := 0
  nobuf := 0

/-- R164, R165: the Control Line Interface after a reset of the cause given. -/
def Link.afterReset (cause : ResetCause) : Link where
  receiver := .hunt
  sessionOpen := false
  resetCause := cause
  table := []
  replies := []
  cache := []
  counters := .zero
  transmitter := .idle
  lineRate := 115200
  restartTaken := false
  straddling := false

/-- R174, R175: the Notice Queue after either reset. -/
def NoticeQueue.reset : NoticeQueue where
  items := []
  credit := 0
  lost := 0
  seqCounter := 0

/-- R141, R142: the Raster Unit after either reset. -/
def Raster.reset : Raster where
  jobs := []
  counter := .next 1
  mark := 0

/-- The part as a pin reset leaves it, the reset input still asserted (R184 and the rules it names): R12, R38, R60, R80,
R92, R111, R128, R141, R164, R174, R179. The queue of commands is empty, and the power-good input is low
(DESIGN CHOICE, unsafe: notes/assumptions/5.md). No next conversion start stands until the release of the reset input
(DESIGN CHOICE, unsafe: notes/assumptions/24.md), and the count of start-ups, the model's own, begins at 0 (DESIGN CHOICE,
safe: notes/assumptions/23.md). -/
def State.reset : State where
  pending := []
  phase := .resetHeld
  powerGood := false
  startUps := 0
  params := .default
  pendingPlane := planeOf 800 600 15
  target := planeOf 800 600 .unknown
  shown := planeOf 800 600 .unknown
  queue := []
  idCounter := 1
  slots := Vector.replicate 8 .free
  halt := .running
  bankA := .none
  bankB := .none
  temp := { reading := none, converting := false, nextStart := none }
  rails := .reset
  frameTimer := .stopped
  load := none
  raster := .reset
  notices := .reset
  link := .afterReset .pin

end Sys2Proof.Machine
end

