-- ==== Sys2Proof/Machine/Bytes.lean ====
section
/-! DEFINITION. Byte order, signed bytes and the two CRCs (chapter 12; R188, R192). -/

namespace Sys2Proof.Machine

/-- Chapter 12: multi-byte fields are little-endian. -/
def leNat : List Byte → Nat
  | [] => 0
  | b :: t => b.toNat + 256 * leNat t

/-- Chapter 12: a number as `n` bytes, least significant first. -/
def leBytes : Nat → Nat → List Byte
  | 0, _ => []
  | n + 1, v => BitVec.ofNat 8 v :: leBytes n (v / 256)

/-- The field of `size` bytes at `offset` of a payload. -/
def fieldNat (payload : List Byte) (offset size : Nat) : Nat :=
  leNat ((payload.drop offset).take size)

/-- Chapter 12: a temperature byte is in two's complement. -/
def signedByte (b : Byte) : Int := b.toInt

/-- Chapter 12: a temperature as a two's complement byte. -/
def temperatureByte (t : Int) : Byte := BitVec.ofInt 8 t

/-- A number as one byte. -/
def byteOf (n : Nat) : Byte := BitVec.ofNat 8 n

/-- R189, R190: 0 no, 1 yes. -/
def flagByte (b : Bool) : Byte := if b then 1 else 0

/-- R188: one shift of the CRC-16 register. -/
def crc16Shift (r : BitVec 16) : BitVec 16 :=
  if r.getLsbD 15 then (r <<< 1) ^^^ 0x1021#16 else r <<< 1

/-- R188: one byte of the CRC-16. -/
def crc16Byte (r : BitVec 16) (b : Byte) : BitVec 16 :=
  Nat.repeat crc16Shift 8 (r ^^^ (b.setWidth 16 <<< 8))

/-- R188: the CRC-16 of a run of bytes. -/
def crc16 (bytes : List Byte) : BitVec 16 := bytes.foldl crc16Byte 0xFFFF#16

/-- R192: one shift of the CRC-32 register. -/
def crc32Shift (r : BitVec 32) : BitVec 32 :=
  if r.getLsbD 0 then (r >>> 1) ^^^ 0xEDB88320#32 else r >>> 1

/-- R192: one byte of the CRC-32. -/
def crc32Byte (r : BitVec 32) (b : Byte) : BitVec 32 :=
  Nat.repeat crc32Shift 8 (r ^^^ b.setWidth 32)

/-- R192: the CRC-32 of a bank image. -/
def crc32 (bytes : List Byte) : BitVec 32 := bytes.foldl crc32Byte 0xFFFFFFFF#32 ^^^ 0xFFFFFFFF#32

end Sys2Proof.Machine
end

