-- ==== Sys2Proof/Machine/Formats.lean ====
section
/-! DEFINITION. The numeric codes of chapter 12: requests, statuses, results and states, and the frame around a message
(R187, R189, R190, R191, R193). -/

namespace Sys2Proof.Machine

/-- The 24 requests (R189). -/
inductive RequestCode where
  | hello
  | getStatus
  | getParameter
  | setParameter
  | restart
  | grantNotices
  | submitUpdate
  | cancelUpdate
  | queryUpdate
  | halt
  | resume
  | bankOpen
  | bankData
  | bankVerify
  | bankActivate
  | bankErase
  | temperatureReport
  | clearFault
  | loadOpen
  | loadData
  | loadClose
  | readPixels
  | fill
  | copy
deriving DecidableEq, Repr

/-- R189: the code of each request. -/
def requestCodeByte : RequestCode → Byte
  | .hello => 0x01
  | .getStatus => 0x02
  | .getParameter => 0x03
  | .setParameter => 0x04
  | .restart => 0x05
  | .grantNotices => 0x06
  | .submitUpdate => 0x10
  | .cancelUpdate => 0x11
  | .queryUpdate => 0x12
  | .halt => 0x13
  | .resume => 0x14
  | .bankOpen => 0x20
  | .bankData => 0x21
  | .bankVerify => 0x22
  | .bankActivate => 0x23
  | .bankErase => 0x24
  | .temperatureReport => 0x28
  | .clearFault => 0x29
  | .loadOpen => 0x30
  | .loadData => 0x31
  | .loadClose => 0x32
  | .readPixels => 0x33
  | .fill => 0x38
  | .copy => 0x39

/-- Every request, in the order of R189's table. -/
def allRequestCodes : List RequestCode :=
  [.hello, .getStatus, .getParameter, .setParameter, .restart, .grantNotices, .submitUpdate, .cancelUpdate,
    .queryUpdate, .halt, .resume, .bankOpen, .bankData, .bankVerify, .bankActivate, .bankErase,
    .temperatureReport, .clearFault, .loadOpen, .loadData, .loadClose, .readPixels, .fill, .copy]

/-- R189: the request a CODE names, if any. -/
def requestCodeOf (b : Byte) : Option RequestCode :=
  allRequestCodes.find? fun c => requestCodeByte c = b

/-- The reply statuses (R190). -/
inductive Status where
  | ok
  | notOpen
  | unknownCode
  | badLength
  | badField
  | badValue
  | badRect
  | nobuf
  | seqBusy
  | busy
  | wrongState
  | noWaveform
  | modeAbsent
  | queueFull
  | collision
  | notFound
  | inDrive
  | loadOpen
  | noLoad
  | outOfOrder
  | overrun
  | size
  | crcMismatch
  | format
deriving DecidableEq, Repr

/-- R190: the value of each status. -/
def statusByte : Status → Byte
  | .ok => 0x00
  | .notOpen => 0x01
  | .unknownCode => 0x02
  | .badLength => 0x03
  | .badField => 0x04
  | .badValue => 0x05
  | .badRect => 0x06
  | .nobuf => 0x07
  | .seqBusy => 0x08
  | .busy => 0x09
  | .wrongState => 0x0A
  | .noWaveform => 0x0B
  | .modeAbsent => 0x0C
  | .queueFull => 0x0D
  | .collision => 0x0E
  | .notFound => 0x0F
  | .inDrive => 0x10
  | .loadOpen => 0x11
  | .noLoad => 0x12
  | .outOfOrder => 0x13
  | .overrun => 0x14
  | .size => 0x15
  | .crcMismatch => 0x16
  | .format => 0x17

/-- R190: a reply payload, its status byte first. -/
def statusPayload (st : Status) (fields : List Byte) : List Byte := statusByte st :: fields

/-- R189: 0 A, 1 B. -/
def bankByte : BankId → Byte
  | .a => 0
  | .b => 1

/-- R190: the rail states. -/
def railStateByte : RailState → Byte
  | .off => 0
  | .rising => 1
  | .on => 2
  | .holding => 3
  | .falling => 4
  | .fault => 5

/-- R190, R191: the fault causes, 0 for none. -/
def faultCauseByte : Option FaultCause → Byte
  | none => 0
  | some .railTimeout => 1
  | some .powerLost => 2

/-- R190: the halt states. -/
def haltStateByte : HaltState → Byte
  | .running => 0
  | .halting => 1
  | .halted => 2

/-- R190: the bank states. -/
def bankStateByte : BankState → Byte
  | .empty => 0
  | .loading => 1
  | .verifying => 2
  | .loaded => 3
  | .active => 4
  | .retiring => 5

/-- R191: the results of an Update Ended notice. -/
def endResultByte : EndResult → Byte
  | .done => 0
  | .halted => 1
  | .railFault => 2
  | .cancelled => 3
  | .modeAbsent => 4
  | .tempRange => 5
  | .unknownSource => 6

/-- R189: 0 WAIT, 1 REFUSE. -/
def policyByte : Policy → Byte
  | .wait => 0
  | .refuse => 1

/-- R189: 0 INTERNAL, 1 HOST. -/
def tempSourceNat : TempSource → Nat
  | .fromSensor => 0
  | .fromHost => 1

/-- R190: 1 PIN, 2 RESTART; a reopening Hello reports 0, NONE. -/
def resetCauseByte : Option ResetCause → Byte
  | none => 0
  | some .pin => 1
  | some .restart => 2

/-- R124, chapter 12.5: one byte for a value of Shown. -/
def pixelByte : Pixel → Byte
  | .level l => byteOf l.val
  | .unknown => 0xFF

/-- R189: a rectangle field is column, row, width, height, two bytes each. -/
def rectBytes (r : Rect) : List Byte :=
  leBytes 2 r.col ++ leBytes 2 r.row ++ leBytes 2 r.width ++ leBytes 2 r.height

/-- R187: a reply frame's CLASS. -/
def replyClass : Byte := 0x02

/-- R187: a notice frame's CLASS. -/
def noticeClass : Byte := 0x03

/-- R187: LEN, CLASS, SEQ, CODE and the payload, over which the CRC runs. -/
def frameCore (cls seq code : Byte) (payload : List Byte) : List Byte :=
  leBytes 2 (payload.length + 3) ++ cls :: seq :: code :: payload

/-- R187, R188: the bytes of a frame, SYNC to the CRC's high byte. -/
def frameBytes (cls seq code : Byte) (payload : List Byte) : List Byte :=
  0x5A :: (frameCore cls seq code payload ++ leBytes 2 (crc16 (frameCore cls seq code payload)).toNat)

/-- R191: the CODE of a notice. -/
def noticeCode : Notice → Byte
  | .updateStarted _ _ _ _ => 0x01
  | .updateEnded _ _ _ _ => 0x02
  | .railFault _ _ => 0x03
  | .tempStale _ _ => 0x04
  | .bankRetired _ => 0x05
  | .noticeLoss _ => 0x06

/-- R191: the payload of a notice. -/
def noticePayload : Notice → List Byte
  | .updateStarted id slot band frames => leBytes 2 id ++ [byteOf slot, byteOf band, byteOf frames]
  | .updateEnded id result framesDriven changed =>
      leBytes 2 id ++ [endResultByte result, byteOf framesDriven] ++ leBytes 4 changed
  | .railFault cause previous => [faultCauseByte (some cause), railStateByte previous]
  | .tempStale reading age => temperatureByte reading :: leBytes 2 age
  | .bankRetired bank => [bankByte bank]
  | .noticeLoss count => leBytes 2 count

end Sys2Proof.Machine
end

