-- ==== Sys2Proof/Machine/Operands.lean ====
section
/-! DEFINITION. The operands of every request, read from its payload (R189): the length check and the field check that
open each request's checks, in the order its own rule gives. Rectangles are judged later, by the requests themselves. -/

namespace Sys2Proof.Machine

/-- R189: a yes-or-no field. -/
def flagOf (b : Byte) : Option Bool :=
  if b = 0 then some false else if b = 1 then some true else none

/-- R189: a bank field. -/
def bankOf (b : Byte) : Option BankId :=
  if b = 0 then some .a else if b = 1 then some .b else none

/-- R189: a policy field. -/
def policyOf (b : Byte) : Option Policy :=
  if b = 0 then some .wait else if b = 1 then some .refuse else none

/-- R189: a level field. -/
def levelOf (b : Byte) : Option Level :=
  if h : b.toNat < 16 then some ⟨b.toNat, h⟩ else none

/-- R189: a scan order field. -/
def orderOf (b : Byte) : Option (Fin 8) :=
  if h : b.toNat < 8 then some ⟨b.toNat, h⟩ else none

/-- R189: which plane a Read Pixels names: true for Shown. -/
def planeFieldOf (b : Byte) : Option Bool :=
  if b = 0 then some false else if b = 1 then some true else none

/-- R189: the rectangle field at an offset of a payload. -/
def rectField (payload : List Byte) (offset : Nat) : Rect where
  col := fieldNat payload offset 2
  row := fieldNat payload (offset + 2) 2
  width := fieldNat payload (offset + 4) 2
  height := fieldNat payload (offset + 6) 2

/-- The byte of a payload at an offset; used only after the length check. -/
def byteField (payload : List Byte) (offset : Nat) : Byte := payload.getD offset 0

/-- A request without fields: any other payload is BAD_LENGTH. -/
def noFields (payload : List Byte) : Except Status Unit :=
  if payload.length = 0 then .ok () else .error .badLength

/-- The fields of a Submit Update (R15, R16). -/
structure SubmitFields where
  rect : Rect
  mode : Nat
  policy : Policy
  skipUnchanged : Bool
  notifyStart : Bool
deriving DecidableEq, Repr

/-- R15, R16: check 1 of a Submit Update. -/
def submitFields (p : List Byte) : Except Status SubmitFields :=
  if p.length ≠ 12 then .error .badLength
  else if 15 < (byteField p 8).toNat then .error .badField
  else
    match policyOf (byteField p 9), flagOf (byteField p 10), flagOf (byteField p 11) with
    | some policy, some skip, some notify =>
        .ok { rect := rectField p 0, mode := (byteField p 8).toNat, policy := policy, skipUnchanged := skip, notifyStart := notify }
    | _, _, _ => .error .badField

/-- R34, R36: the update id of a Cancel Update or a Query Update. -/
def updateIdField (p : List Byte) : Except Status Nat :=
  if p.length ≠ 2 then .error .badLength else .ok (fieldNat p 0 2)

/-- R54: the flush flag of a Halt. -/
def haltFields (p : List Byte) : Except Status Bool :=
  if p.length ≠ 1 then .error .badLength
  else
    match flagOf (byteField p 0) with
    | some flush => .ok flush
    | none => .error .badField

/-- R64: a request that carries the bank alone (Bank Verify, Bank Activate, Bank Erase). -/
def bankField (p : List Byte) : Except Status BankId :=
  if p.length ≠ 1 then .error .badLength
  else
    match bankOf (byteField p 0) with
    | some bank => .ok bank
    | none => .error .badField

/-- R65: the bank, the declared size and the declared CRC of a Bank Open. -/
def bankOpenFields (p : List Byte) : Except Status (BankId × Declared) :=
  if p.length ≠ 9 then .error .badLength
  else
    match bankOf (byteField p 0) with
    | none => .error .badField
    | some bank =>
        if fieldNat p 1 4 < 64 ∨ 65536 < fieldNat p 1 4 then .error .badField
        else .ok (bank, { size := fieldNat p 1 4, crc := BitVec.ofNat 32 (fieldNat p 5 4) })

/-- R66, R189: the bank, the offset and the data of a Bank Data. -/
def bankDataFields (p : List Byte) : Except Status (BankId × Nat × List Byte) :=
  if p.length < 6 ∨ 1021 < p.length then .error .badLength
  else
    match bankOf (byteField p 0) with
    | none => .error .badField
    | some bank => .ok (bank, fieldNat p 1 4, p.drop 5)

/-- R85: checks 1 and 2 of a Temperature Report. -/
def temperatureFields (p : List Byte) : Except Status Int :=
  if p.length ≠ 1 then .error .badLength
  else if signedByte (byteField p 0) < -40 ∨ 85 < signedByte (byteField p 0) then .error .badField
  else .ok (signedByte (byteField p 0))

/-- R115: the three checks of a Load Open. -/
def loadOpenFields (p : List Byte) : Except Status (Region × Fin 8) :=
  if p.length ≠ 9 then .error .badLength
  else
    match orderOf (byteField p 8) with
    | none => .error .badField
    | some order =>
        match regionOf (rectField p 0) with
        | none => .error .badRect
        | some window => .ok (window, order)

/-- Chapter 12.5: the two levels of a packed byte, the first in bits 7 to 4. -/
def unpackByte (b : Byte) : List Level :=
  [Fin.ofNat 16 (b.toNat / 16), Fin.ofNat 16 b.toNat]

/-- R119, R120: checks 1 and 2 of a Load Data, and its pixels in order; an odd count leaves out the last four bits. -/
def loadDataFields (p : List Byte) : Except Status (List Level) :=
  if p.length < 2 ∨ p.length ≠ 2 + (fieldNat p 0 2 + 1) / 2 then .error .badLength
  else if fieldNat p 0 2 < 1 ∨ 2032 < fieldNat p 0 2 then .error .badField
  else .ok (((p.drop 2).flatMap unpackByte).take (fieldNat p 0 2))

/-- R123: the three checks of a Read Pixels: whether it names Shown, and the rectangle. -/
def readPixelsFields (p : List Byte) : Except Status (Bool × Region) :=
  if p.length ≠ 9 then .error .badLength
  else
    match planeFieldOf (byteField p 0) with
    | none => .error .badField
    | some ofShown =>
        match regionOf (rectField p 1) with
        | none => .error .badRect
        | some r => if rectArea r.val ≤ 1000 then .ok (ofShown, r) else .error .badRect

/-- R132: checks 1 to 3 of a Fill. -/
def fillFields (p : List Byte) : Except Status (Region × Level) :=
  if p.length ≠ 9 then .error .badLength
  else
    match levelOf (byteField p 8) with
    | none => .error .badField
    | some level =>
        match regionOf (rectField p 0) with
        | none => .error .badRect
        | some r => .ok (r, level)

/-- R133: checks 1 to 3 of a Copy: the source and the destination rectangle. -/
def copyFields (p : List Byte) : Except Status (Region × Region) :=
  if p.length ≠ 12 then .error .badLength
  else
    match regionOf (rectField p 0) with
    | none => .error .badRect
    | some source =>
        match regionOf { source.val with col := fieldNat p 8 2, row := fieldNat p 10 2 } with
        | none => .error .badRect
        | some dest => .ok (source, dest)

/-- R170: the two checks of a Grant Notices. -/
def grantFields (p : List Byte) : Except Status Nat :=
  if p.length ≠ 1 then .error .badLength
  else if (byteField p 0).toNat < 1 then .error .badField
  else .ok (byteField p 0).toNat

/-- R151: the two checks of a Hello. -/
def helloFields (p : List Byte) : Except Status Unit :=
  if p.length ≠ 1 then .error .badLength
  else if (byteField p 0).toNat ≠ Config.protocolVersion then .error .badField
  else .ok ()

/-- The nine parameters by name (R176). -/
inductive ParamId where
  | frameRate
  | riseLimit
  | settle
  | holdTime
  | fallTime
  | tempSource
  | samplePeriod
  | staleLimit
  | lineRate
deriving DecidableEq, Repr

/-- R189: the identifier of each parameter. -/
def paramByte : ParamId → Byte
  | .frameRate => 0x01
  | .riseLimit => 0x02
  | .settle => 0x03
  | .holdTime => 0x04
  | .fallTime => 0x05
  | .tempSource => 0x06
  | .samplePeriod => 0x07
  | .staleLimit => 0x08
  | .lineRate => 0x09

/-- R189: the parameter an identifier names, if any. -/
def paramOf (b : Byte) : Option ParamId :=
  [ParamId.frameRate, .riseLimit, .settle, .holdTime, .fallTime, .tempSource, .samplePeriod, .staleLimit, .lineRate].find?
    fun q => paramByte q = b

/-- R176: whether a value lies in a parameter's range. -/
def paramInRange (q : ParamId) (v : Nat) : Bool :=
  match q with
  | .frameRate => decide (20 ≤ v) && decide (v ≤ 120)
  | .riseLimit => decide (1 ≤ v) && decide (v ≤ 100)
  | .settle => decide (v ≤ 50)
  | .holdTime => decide (v ≤ 60000)
  | .fallTime => decide (1 ≤ v) && decide (v ≤ 200)
  | .tempSource => decide (v ≤ 1)
  | .samplePeriod => decide (1 ≤ v) && decide (v ≤ 600)
  | .staleLimit => decide (10 ≤ v) && decide (v ≤ 3600)
  | .lineRate => decide (v = 115200) || decide (v = 230400) || decide (v = 460800) || decide (v = 921600) || decide (v = 1843200)

/-- R189: the value a parameter holds, as the number its field carries. -/
def paramValue (q : ParamId) (ps : Params) : Nat :=
  match q with
  | .frameRate => ps.frameRate
  | .riseLimit => ps.riseLimit
  | .settle => ps.settle
  | .holdTime => ps.holdTime
  | .fallTime => ps.fallTime
  | .tempSource => tempSourceNat ps.tempSource
  | .samplePeriod => ps.samplePeriod
  | .staleLimit => ps.staleLimit
  | .lineRate => ps.lineRate

/-- R177: a value stored in the Parameter Table. -/
def paramStore (q : ParamId) (v : Nat) (ps : Params) : Params :=
  match q with
  | .frameRate => { ps with frameRate := v }
  | .riseLimit => { ps with riseLimit := v }
  | .settle => { ps with settle := v }
  | .holdTime => { ps with holdTime := v }
  | .fallTime => { ps with fallTime := v }
  | .tempSource => { ps with tempSource := if v = 0 then .fromSensor else .fromHost }
  | .samplePeriod => { ps with samplePeriod := v }
  | .staleLimit => { ps with staleLimit := v }
  | .lineRate => { ps with lineRate := v }

/-- R177: the three checks of a Set Parameter. -/
def setParameterFields (p : List Byte) : Except Status (ParamId × Nat) :=
  if p.length ≠ 5 then .error .badLength
  else
    match paramOf (byteField p 0) with
    | none => .error .badField
    | some q => if paramInRange q (fieldNat p 1 4) then .ok (q, fieldNat p 1 4) else .error .badValue

/-- R178: the checks of a Get Parameter. -/
def getParameterFields (p : List Byte) : Except Status ParamId :=
  if p.length ≠ 1 then .error .badLength
  else
    match paramOf (byteField p 0) with
    | none => .error .badField
    | some q => .ok q

end Sys2Proof.Machine
end

