-- ==== Sys2Proof/Machine/Image.lean ====
section
/-! DEFINITION. What the bytes of a waveform bank mean (R70 to R74, R193): the structural walk of verification, the band
of a reading, and the drive of a transition in a frame (R48, R49). -/

namespace Sys2Proof.Machine

/-- A drive of the panel drive port (chapter 3.4). -/
inductive Drive where
  | neutral
  | pos
  | neg
deriving DecidableEq, Repr

/-- A step of a phase list: a drive held for a number of frames (R73). -/
structure PhaseStep where
  drive : Drive
  frames : Nat
deriving DecidableEq, Repr

/-- What a mode record holds for one band: the frame count F, and the phase lists of its transition table, row by row
(R72, R73). -/
structure BandData where
  frames : Nat
  table : List (List PhaseStep)
deriving DecidableEq, Repr

/-- A mode record (R72). `twoLevel` is a level count of 2. -/
structure ModeRecord where
  id : Nat
  twoLevel : Bool
  unknownRow : Bool
  bands : List BandData
deriving DecidableEq, Repr

/-- A bank image (R70 to R73): the band bounds and the mode records in image order. -/
structure BankImage where
  bounds : List Int
  modes : List ModeRecord
deriving DecidableEq, Repr

/-- The detail codes of FORMAT (R74). -/
inductive Detail where
  | version
  | bandCount
  | modeCount
  | bandBound
  | bandOrder
  | modeId
  | modeDuplicate
  | levelCount
  | rowFlag
  | frameCount
  | stepCount
  | stepDrive
  | stepLength
  | phaseSum
  | truncated
  | trailing
deriving DecidableEq, Repr

/-- R193: the value of each detail code. -/
def detailByte : Detail → Byte
  | .version => 0x01
  | .bandCount => 0x02
  | .modeCount => 0x03
  | .bandBound => 0x04
  | .bandOrder => 0x05
  | .modeId => 0x06
  | .modeDuplicate => 0x07
  | .levelCount => 0x08
  | .rowFlag => 0x09
  | .frameCount => 0x0A
  | .stepCount => 0x0B
  | .stepDrive => 0x0C
  | .stepLength => 0x0D
  | .phaseSum => 0x0E
  | .truncated => 0x0F
  | .trailing => 0x10

/-- A place in the walk: the offset of the next byte and the bytes from there on. -/
structure Cursor where
  offset : Nat
  rest : List Byte
deriving DecidableEq, Repr

/-- What a part of the walk answers: a value and the place after it, or the detail code and offset of R74. -/
abbrev Walk (α : Type) := Except (Detail × Nat) (α × Cursor)

/-- The next byte, or TRUNCATED at the end of the image, whose offset is the image's size (R74, R193). -/
def walkByte (c : Cursor) : Walk Byte :=
  match c.rest with
  | [] => .error (.truncated, c.offset)
  | b :: t => .ok (b, { offset := c.offset + 1, rest := t })

/-- The next byte under a check: `judge` names what is wrong with it, and its offset is the byte's own. -/
def walkChecked (judge : Byte → Option Detail) (c : Cursor) : Walk Byte :=
  match walkByte c with
  | .error e => .error e
  | .ok (b, c') =>
      match judge b with
      | some d => .error (d, c.offset)
      | none => .ok (b, c')

/-- R71, R74: what is wrong with a band bound, given the bound before it. -/
def judgeBound (previous : Option Int) (b : Byte) : Option Detail :=
  if signedByte b < -40 ∨ 85 < signedByte b then some .bandBound
  else
    match previous with
    | none => none
    | some q => if signedByte b ≤ q then some .bandOrder else none

/-- R71: the band table. -/
def walkBounds : Nat → Option Int → Cursor → Walk (List Int)
  | 0, _, c => .ok ([], c)
  | n + 1, previous, c =>
      match walkChecked (judgeBound previous) c with
      | .error e => .error e
      | .ok (b, c') =>
          match walkBounds n (some (signedByte b)) c' with
          | .error e => .error e
          | .ok (bs, c'') => .ok (signedByte b :: bs, c'')

/-- R193: 0 NEUTRAL, 1 POS, 2 NEG. -/
def driveOf (b : Byte) : Option Drive :=
  if b = 0 then some .neutral else if b = 1 then some .pos else if b = 2 then some .neg else none

/-- R73: the steps of a phase list. -/
def walkSteps : Nat → Cursor → Walk (List PhaseStep)
  | 0, c => .ok ([], c)
  | n + 1, c =>
      match walkByte c with
      | .error e => .error e
      | .ok (d, c1) =>
          match driveOf d with
          | none => .error (.stepDrive, c.offset)
          | some drive =>
              match walkChecked (fun b => if b = 0 then some .stepLength else none) c1 with
              | .error e => .error e
              | .ok (len, c2) =>
                  match walkSteps n c2 with
                  | .error e => .error e
                  | .ok (steps, c3) => .ok ({ drive := drive, frames := len.toNat } :: steps, c3)

/-- R73: the sum of the lengths of a phase list. -/
def phaseSum (steps : List PhaseStep) : Nat := (steps.map (·.frames)).sum

/-- R73, R74: a phase list in a band of frame count `frames`. -/
def walkPhaseList (frames : Nat) (c : Cursor) : Walk (List PhaseStep) :=
  match walkChecked (fun b => if b = 0 ∨ 8 < b.toNat then some .stepCount else none) c with
  | .error e => .error e
  | .ok (count, c') =>
      match walkSteps count.toNat c' with
      | .error e => .error e
      | .ok (steps, c'') =>
          if frames < phaseSum steps then .error (.phaseSum, c.offset) else .ok (steps, c'')

/-- R73: the phase lists of one transition table. -/
def walkTable (frames : Nat) : Nat → Cursor → Walk (List (List PhaseStep))
  | 0, c => .ok ([], c)
  | n + 1, c =>
      match walkPhaseList frames c with
      | .error e => .error e
      | .ok (steps, c') =>
          match walkTable frames n c' with
          | .error e => .error e
          | .ok (lists, c'') => .ok (steps :: lists, c'')

/-- R72: the frame counts of a mode record, one per band. -/
def walkFrameCounts : Nat → Cursor → Walk (List Nat)
  | 0, c => .ok ([], c)
  | n + 1, c =>
      match walkChecked (fun b => if b = 0 then some .frameCount else none) c with
      | .error e => .error e
      | .ok (b, c') =>
          match walkFrameCounts n c' with
          | .error e => .error e
          | .ok (fs, c'') => .ok (b.toNat :: fs, c'')

/-- R73: the number of phase lists in one table: 256, 272, 32 or 34. -/
def tableLists (twoLevel unknownRow : Bool) : Nat :=
  (if unknownRow then 17 else 16) * (if twoLevel then 2 else 16)

/-- R72: the transition tables of a mode record, one per band, each with its band's frame count. -/
def walkBands (lists : Nat) : List Nat → Cursor → Walk (List BandData)
  | [], c => .ok ([], c)
  | f :: fs, c =>
      match walkTable f lists c with
      | .error e => .error e
      | .ok (table, c') =>
          match walkBands lists fs c' with
          | .error e => .error e
          | .ok (bands, c'') => .ok ({ frames := f, table := table } :: bands, c'')

/-- R72, R74: what is wrong with a mode id, given the ids before it. -/
def judgeModeId (earlier : List Nat) (b : Byte) : Option Detail :=
  if 15 < b.toNat then some .modeId else if b.toNat ∈ earlier then some .modeDuplicate else none

/-- R72: one mode record. -/
def walkMode (bandCount : Nat) (earlier : List Nat) (c : Cursor) : Walk ModeRecord :=
  match walkChecked (judgeModeId earlier) c with
  | .error e => .error e
  | .ok (id, c1) =>
      match walkChecked (fun b => if b = 2 ∨ b = 16 then none else some .levelCount) c1 with
      | .error e => .error e
      | .ok (levels, c2) =>
          match walkChecked (fun b => if b = 0 ∨ b = 1 then none else some .rowFlag) c2 with
          | .error e => .error e
          | .ok (flag, c3) =>
              match walkFrameCounts bandCount c3 with
              | .error e => .error e
              | .ok (counts, c4) =>
                  match walkBands (tableLists (decide (levels = 2)) (decide (flag = 1))) counts c4 with
                  | .error e => .error e
                  | .ok (bands, c5) =>
                      .ok ({ id := id.toNat, twoLevel := decide (levels = 2), unknownRow := decide (flag = 1), bands := bands }, c5)

/-- R72: the mode records. -/
def walkModes (bandCount : Nat) : Nat → List Nat → Cursor → Walk (List ModeRecord)
  | 0, _, c => .ok ([], c)
  | n + 1, earlier, c =>
      match walkMode bandCount earlier c with
      | .error e => .error e
      | .ok (m, c') =>
          match walkModes bandCount n (m.id :: earlier) c' with
          | .error e => .error e
          | .ok (ms, c'') => .ok (m :: ms, c'')

/-- R74, R193: the structural walk of an image, from byte 0 in the order of its layout (DEDUCED, unsafe where an image
fails twice: notes/assumptions/12.md). -/
def walkImage (bytes : List Byte) : Except (Detail × Nat) BankImage :=
  match walkChecked (fun b => if b = 1 then none else some .version) { offset := 0, rest := bytes } with
  | .error e => .error e
  | .ok (_, c1) =>
      match walkChecked (fun b => if b = 0 ∨ 8 < b.toNat then some .bandCount else none) c1 with
      | .error e => .error e
      | .ok (bandCount, c2) =>
          match walkChecked (fun b => if b = 0 ∨ 16 < b.toNat then some .modeCount else none) c2 with
          | .error e => .error e
          | .ok (modeCount, c3) =>
              match walkBounds bandCount.toNat none c3 with
              | .error e => .error e
              | .ok (bounds, c4) =>
                  match walkModes bandCount.toNat modeCount.toNat [] c4 with
                  | .error e => .error e
                  | .ok (modes, c5) =>
                      if c5.rest.isEmpty then .ok { bounds := bounds, modes := modes } else .error (.trailing, c5.offset)

/-! ### The image laid out -/

/-- R193: the byte of a drive. -/
def driveByte : Drive → Byte
  | .neutral => 0
  | .pos => 1
  | .neg => 2

/-- R193: a phase list: its step count, then two bytes a step. -/
def phaseListBytes (steps : List PhaseStep) : List Byte :=
  byteOf steps.length :: steps.flatMap fun x => [driveByte x.drive, byteOf x.frames]

/-- R193: a mode record: its fields, its frame counts and its transition tables. -/
def modeBytes (m : ModeRecord) : List Byte :=
  [byteOf m.id, if m.twoLevel then 2 else 16, flagByte m.unknownRow] ++ m.bands.map (fun b => byteOf b.frames) ++
    m.bands.flatMap fun b => b.table.flatMap phaseListBytes

/-- R193: a bank image: header, band table, mode records. -/
def imageBytes (img : BankImage) : List Byte :=
  [1, byteOf img.bounds.length, byteOf img.modes.length] ++ img.bounds.map temperatureByte ++ img.modes.flatMap modeBytes

/-- R73: a phase list of a band of frame count `frames`. -/
def phaseListSound (frames : Nat) (steps : List PhaseStep) : Prop :=
  1 ≤ steps.length ∧ steps.length ≤ 8 ∧ (∀ x ∈ steps, 1 ≤ x.frames ∧ x.frames ≤ 255) ∧ phaseSum steps ≤ frames

/-- R72, R73: a mode record of an image with `bandCount` bands. -/
def modeSound (bandCount : Nat) (m : ModeRecord) : Prop :=
  m.id ≤ 15 ∧ m.bands.length = bandCount ∧
    ∀ b ∈ m.bands, 1 ≤ b.frames ∧ b.frames ≤ 255 ∧ b.table.length = tableLists m.twoLevel m.unknownRow ∧
      ∀ steps ∈ b.table, phaseListSound b.frames steps

/-- R70 to R73: what the values of an image may be. -/
def imageSound (img : BankImage) : Prop :=
  1 ≤ img.bounds.length ∧ img.bounds.length ≤ 8 ∧ 1 ≤ img.modes.length ∧ img.modes.length ≤ 16 ∧
    (∀ b ∈ img.bounds, -40 ≤ b ∧ b ≤ 85) ∧ img.bounds.Pairwise (· < ·) ∧ (img.modes.map (·.id)).Nodup ∧
    ∀ m ∈ img.modes, modeSound img.bounds.length m

/-- The mode record an image has for a mode id, if any (R17, R29). -/
def modeOfBytes (bytes : List Byte) (mode : Nat) : Option ModeRecord :=
  match walkImage bytes with
  | .error _ => none
  | .ok img => img.modes.find? fun m => m.id = mode

/-- The band bounds of an image; none for bytes that are no image. -/
def boundsOfBytes (bytes : List Byte) : List Int :=
  match walkImage bytes with
  | .error _ => []
  | .ok img => img.bounds

/-- R30, R71: the band of a reading: the last band whose bound the reading reaches. -/
def bandOfReading (bounds : List Int) (reading : Int) : Option Nat :=
  match (bounds.takeWhile fun b => b ≤ reading).length with
  | 0 => none
  | n + 1 => some n

/-- R48, R193: the place of a transition in its table: the row of the Shown value, the column of the Target level. -/
def transitionIndex (m : ModeRecord) (old : Pixel) (new : Level) : Nat :=
  let row := match old with
    | .level l => l.val
    | .unknown => 16
  if m.twoLevel then 2 * row + (if 8 ≤ new.val then 1 else 0) else 16 * row + new.val

/-- R48: the phase list of a transition. -/
def transitionOf (m : ModeRecord) (band : Nat) (old : Pixel) (new : Level) : List PhaseStep :=
  match m.bands[band]? with
  | none => []
  | some b => b.table.getD (transitionIndex m old new) []

/-- R49: the drive of the step that covers frame `k` (counted from 1), NEUTRAL past the last step. -/
def phaseDrive : List PhaseStep → Nat → Drive
  | [], _ => .neutral
  | step :: rest, k => if k ≤ step.frames then step.drive else phaseDrive rest (k - step.frames)

end Sys2Proof.Machine
end

