-- ==== Sys2Proof/Machine/Flags.lean ====
section
/-! DEFINITION. The conditions the blocks read from one another: active slots and demand, the validity of the reading, the
ACTIVE bank, the start conditions of an entry and the holds of the dispatcher. -/

namespace Sys2Proof.Machine

/-- R39: the update of an active slot. -/
def slotUpdate : Slot → Option Update
  | .free => none
  | .armed u => some u
  | .driving u => some u

/-- R39: whether a slot is FREE. -/
def slotIsFree : Slot → Bool
  | .free => true
  | .armed _ => false
  | .driving _ => false

/-- The updates of the active slots, in slot-number order. -/
def activeUpdates (s : State) : List Update := s.slots.toList.filterMap slotUpdate

/-- R94: at least one slot is ARMED or DRIVING. -/
def demand (s : State) : Bool := s.slots.toList.any fun x => !slotIsFree x

/-- The slot numbers, lowest first. -/
def slotNumbers : List (Fin 8) := [0, 1, 2, 3, 4, 5, 6, 7]

/-- R41: the FREE slot with the lowest number. -/
def lowestFree (s : State) : Option (Fin 8) := slotNumbers.find? fun i => slotIsFree s.slots[i]

/-- R82: a reading is present and its age is at most STALE_LIMIT. -/
def readingValid (s : State) : Bool :=
  match s.temp.reading with
  | none => false
  | some r => decide (r.age ≤ s.params.staleLimit)

/-- The bank of a name. -/
def bankAt (s : State) : BankId → Bank
  | .a => s.bankA
  | .b => s.bankB

/-- The other bank's name (R75). -/
def otherBank : BankId → BankId
  | .a => .b
  | .b => .a

/-- R17, R29: the ACTIVE bank, if any. -/
def activeBank (s : State) : Option BankId :=
  if s.bankA.state = .active then some .a else if s.bankB.state = .active then some .b else none

/-- R17, R29: the mode record of a mode id in the ACTIVE bank. -/
def activeMode (s : State) (mode : Nat) : Option ModeRecord :=
  match activeBank s with
  | none => none
  | some bank => modeOfBytes (bankAt s bank).contents mode

/-- R25, R37: the start conditions that fail for an entry: each field is true where its condition is unmet. -/
structure Unmet where
  a : Bool
  b : Bool
  c : Bool
  d : Bool
  e : Bool
  f : Bool
  g : Bool
  h : Bool
deriving DecidableEq, Repr

/-- R23: whether a raster fence is satisfied. -/
def fenceReached (fence : Option Nat) (mark : Nat) : Bool :=
  match fence with
  | none => true
  | some f => decide (f ≤ mark)

/-- Condition (f) fails: the rectangle overlaps that of an active slot (R25). -/
def overlapsSlot (s : State) (r : Rect) : Bool := (activeUpdates s).any fun u => rectsOverlap u.rect.val r

/-- Condition (g) fails: the rectangle overlaps that of one of the entries given (R25). -/
def overlapsEntry (es : List Entry) (r : Rect) : Bool := es.any fun x => rectsOverlap x.rect.val r

/-- R25, R37: the unmet start conditions of an entry behind the entries `older`. -/
def unmetConditions (s : State) (older : List Entry) (x : Entry) : Unmet where
  a := decide (s.halt ≠ .running)
  b := decide (s.rails.state = .fault)
  c := !readingValid s
  d := !fenceReached x.rasterFence s.raster.mark
  e := x.loadFence
  f := overlapsSlot s x.rect.val
  g := overlapsEntry older x.rect.val
  h := (lowestFree s).isNone

/-- R25: all eight conditions hold. -/
def startable (s : State) (older : List Entry) (x : Entry) : Bool :=
  decide (unmetConditions s older x =
    { a := false, b := false, c := false, d := false, e := false, f := false, g := false, h := false })

/-- R190: bit 0 for (a) through bit 7 for (h). -/
def unmetByte (u : Unmet) : Byte :=
  byteOf (u.a.toNat + 2 * u.b.toNat + 4 * u.c.toNat + 8 * u.d.toNat + 16 * u.e.toNat + 32 * u.f.toNat +
    64 * u.g.toNat + 128 * u.h.toNat)

/-- R27: the oldest startable entry of a queue, with the entries older and younger than it. -/
def firstStartable (s : State) : List Entry → List Entry → Option (List Entry × Entry × List Entry)
  | _, [] => none
  | older, x :: rest =>
      if startable s older x then some (older, x, rest) else firstStartable s (older ++ [x]) rest

/-- R21: the update ids in use: those of the queued entries and of the active slots. -/
def idsInUse (s : State) : List Nat := s.queue.map (·.id) ++ (activeUpdates s).map (·.id)

/-- R154: whether an entry is WAITING. -/
def isWaiting (r : Request) : Bool := decide (r.state = .waiting)

/-- R158: the oldest WAITING entry of the Request Table. -/
def oldestWaiting (s : State) : Option Request := s.link.table.find? isWaiting

/-- R159: whether the dispatcher holds an entry. -/
def held (s : State) (r : Request) : Bool :=
  match requestCodeOf r.code with
  | some .loadOpen => !s.raster.jobs.isEmpty
  | some .readPixels => decide (r.payload.head? = some 0) && !s.raster.jobs.isEmpty
  | some .fill => decide (Config.jobCapacity ≤ s.raster.jobs.length)
  | some .copy => decide (Config.jobCapacity ≤ s.raster.jobs.length)
  | _ => false

/-- R158, R160: the entry the dispatcher takes next: the oldest WAITING entry, when it is not held and no Restart has
been executed. Out of normal running (R184, R185) the dispatcher takes none. -/
def nextRequest (s : State) : Option Request :=
  if s.phase = .running ∧ s.link.restartTaken = false then
    match oldestWaiting s with
    | none => none
    | some r => if held s r then none else some r
  else none

end Sys2Proof.Machine
end

