-- ==== Sys2Proof/Machine/Ops.lean ====
section
/-! DEFINITION. The shared operations on the Notice Queue, the reply queue, the Request Table, the Reply Cache and the
link counters. -/

namespace Sys2Proof.Machine

/-! ### Notices -/

/-- R168: a notice joins at the tail, or is dropped and counted when 16 are there. -/
def offerTo (q : NoticeQueue) (n : Notice) : NoticeQueue :=
  if q.items.length < Config.noticeCapacity then { q with items := q.items ++ [n] }
  else { q with lost := min Config.counter16Max (q.lost + 1) }

/-- R168: a notice offered to the Notice Queue. -/
def offerNotice (n : Notice) (s : State) : State := { s with notices := offerTo s.notices n }

/-! ### Link counters -/

/-- R149: a link counter rises, and stops at 65,535. -/
def counterUp (n : Nat) : Nat := min Config.counter16Max (n + 1)

/-- R149: the NOBUF counter rises. -/
def countNobuf (s : State) : State :=
  { s with link := { s.link with counters := { s.link.counters with nobuf := counterUp s.link.counters.nobuf } } }

/-- R149: the CRC error counter rises. -/
def countCrcError (s : State) : State :=
  { s with link := { s.link with counters := { s.link.counters with crc := counterUp s.link.counters.crc } } }

/-- R149: the class error counter rises. -/
def countClassError (s : State) : State :=
  { s with link := { s.link with counters := { s.link.counters with cls := counterUp s.link.counters.cls } } }

/-- R149: the gap error counter rises. -/
def countGapError (s : State) : State :=
  { s with link := { s.link with counters := { s.link.counters with gap := counterUp s.link.counters.gap } } }

/-- R149: the length error counter rises. -/
def countLengthError (s : State) : State :=
  { s with link := { s.link with counters := { s.link.counters with length := counterUp s.link.counters.length } } }

/-- The receiver takes a state. -/
def setReceiver (r : Receiver) (s : State) : State := { s with link := { s.link with receiver := r } }

/-! ### Replies -/

/-- R161: a reply enters the reply queue. -/
def queueReply (q : QueuedReply) (s : State) : State :=
  { s with link := { s.link with replies := s.link.replies ++ [q] } }

/-- R161: an immediate answer joins only below 16 replies; else it is not produced and the NOBUF counter rises. -/
def queueAnswer (q : QueuedReply) (s : State) : State :=
  if s.link.replies.length < Config.answerLimit then queueReply q s else countNobuf s

/-- An immediate answer that is sent and forgotten (R150, R155): a status alone. -/
def statusAnswer (seq code : Byte) (st : Status) : QueuedReply where
  reply := { seq := seq, code := code, payload := statusPayload st [] }
  origin := .forgotten
  effect := .nothing

/-- R155, R151: a cached reply queued again, unchanged. -/
def resendAnswer (r : Reply) : QueuedReply where
  reply := r
  origin := .forgotten
  effect := .nothing

/-- R154: the first entry of a table that passes a test takes a state, its payload done with. -/
def markFirst (p : Request → Bool) (st : RequestState) : List Request → List Request
  | [] => []
  | r :: t => if p r then { r with state := st, payload := [] } :: t else r :: markFirst p st t

/-- R158: the entry being taken, the oldest WAITING one, becomes EXECUTING, and its reply is queued. -/
def answerEntry (r : Request) (st : Status) (fields : List Byte) (effect : ReplyEffect) (s : State) : State :=
  queueReply { reply := { seq := r.seq, code := r.code, payload := statusPayload st fields }, origin := .entry, effect := effect }
    { s with link := { s.link with table := markFirst isWaiting .executing s.link.table } }

/-- R158: the entry being taken, the oldest WAITING one, becomes DEFERRED on its work. -/
def deferEntry (work : Work) (s : State) : State :=
  { s with link := { s.link with table := markFirst isWaiting (.deferred work) s.link.table } }

/-- R154, R157: the end of deferred work at the Request Table: an orphaned entry leaves, any other becomes EXECUTING. -/
def finishTable (work : Work) : List Request → List Request
  | [] => []
  | r :: t =>
      if r.state = .deferred work then
        if r.orphaned then finishTable work t else { r with state := .executing } :: finishTable work t
      else r :: finishTable work t

/-- R154, R157: the replies that the end of deferred work queues, in the order the requests were received. -/
def finishReplies (work : Work) (st : Status) (fields : List Byte) (table : List Request) : List QueuedReply :=
  (table.filter fun r => decide (r.state = .deferred work) && !r.orphaned).map fun r =>
    { reply := { seq := r.seq, code := r.code, payload := statusPayload st fields }, origin := .entry, effect := .nothing }

/-- R154, R157: deferred work ends: its entries are answered, or leave when orphaned. -/
def finishWork (work : Work) (st : Status) (fields : List Byte) (s : State) : State :=
  { s with link := { s.link with
      table := finishTable work s.link.table
      replies := s.link.replies ++ finishReplies work st fields s.link.table } }

/-- R158: one taking of the dispatcher: when the entry it takes next carries the CODE named, the request runs; else
this step does not occur and nothing changes (DESIGN CHOICE, safe: notes/assumptions/1.md). -/
def dispatch (code : RequestCode) (run : Request → State → State) (s : State) : State :=
  match nextRequest s with
  | none => s
  | some r => if requestCodeOf r.code = some code then run r s else s

/-! ### The Reply Cache -/

/-- R156: a reply joins the cache; when 8 are there the oldest makes room. -/
def cacheAdd (cache : List Reply) (r : Reply) : List Reply :=
  (if Config.cacheCapacity ≤ cache.length then cache.drop 1 else cache) ++ [r]

/-- R155, R151: the cached replies of a SEQ are removed. -/
def cacheRemove (cache : List Reply) (seq : Byte) : List Reply := cache.filter fun r => decide (r.seq ≠ seq)

/-- R155: the entries that take part in SEQ matching are those not orphaned. -/
def outstandingWith (table : List Request) (seq : Byte) : Bool :=
  table.any fun r => decide (r.seq = seq) && !r.orphaned

/-! ### Banks -/

/-- A bank takes a value. -/
def setBank (bank : BankId) (v : Bank) (s : State) : State :=
  match bank with
  | .a => { s with bankA := v }
  | .b => { s with bankB := v }

/-- R63: an arming raises its bank's reference count. -/
def retainBank (bank : BankId) (s : State) : State :=
  setBank bank { bankAt s bank with refCount := (bankAt s bank).refCount + 1 } s

/-- R63, R77: the end of a slot lowers its bank's count; a RETIRING bank whose count reaches 0 becomes LOADED. -/
def bankReleased (v : Bank) : Bank :=
  if v.state = .retiring ∧ v.refCount - 1 = 0 then { v with state := .loaded, refCount := 0 }
  else { v with refCount := v.refCount - 1 }

/-- R77: whether lowering a bank's count retires it. -/
def bankRetires (v : Bank) : Bool := decide (v.state = .retiring) && decide (v.refCount - 1 = 0)

end Sys2Proof.Machine
end

