-- ==== Sys2Proof/Machine/Drive.lean ====
section
/-! DEFINITION. The shared operations of the Drive Table and the Update Queue: arming, completion, abort, the end of a
halt, and the evaluation of starts (chapters 2 and 3). -/

namespace Sys2Proof.Machine

/-! ### Slots and banks -/

/-- A slot takes a value. -/
def setSlot (i : Fin 8) (x : Slot) (s : State) : State := { s with slots := s.slots.set i x }

/-- R51, R52, R77: the end of a slot at its bank: the count falls, and a bank that retires queues Bank Retired. -/
def releaseBank (bank : BankId) (s : State) : State :=
  let s' := setBank bank (bankReleased (bankAt s bank)) s
  if bankRetires (bankAt s bank) then offerNotice (.bankRetired bank) s' else s'

/-- R61, R81: the end of a slot at its bank at a Restart, without a notice. -/
def releaseBankSilently (bank : BankId) (s : State) : State := setBank bank (bankReleased (bankAt s bank)) s

/-! ### Arming -/

/-- R4: rounding in a two-level mode. -/
def roundLevel (l : Level) : Level := if l.val ≤ 7 then 0 else 15

/-- R44: what Target latches from Pending over a rectangle. -/
def latchImage (s : State) (r : Rect) (twoLevel : Bool) : Plane Pixel :=
  planeMap (fun l => Pixel.level (if twoLevel then roundLevel l else l)) (planeCrop r s.pendingPlane)

/-- R45: the pixels of a rectangle at which Target and Shown differ. -/
def changedPixels (s : State) (r : Rect) : Nat := planeDiffCount (planeCrop r s.target) (planeCrop r s.shown)

/-- R31: whether Shown holds UNKNOWN somewhere over a rectangle. -/
def sourceUnknown (s : State) (r : Rect) : Bool := planeHolds Pixel.unknown (planeCrop r s.shown)

/-- What the start checks find for an entry that passes them: its bank, mode record, band and frame count (R43). -/
structure StartData where
  bank : BankId
  record : ModeRecord
  band : Nat
  frames : Nat
deriving DecidableEq, Repr

/-- R28 to R31: the three start checks, in order. Corners that no run reaches end in a failed check too (DESIGN CHOICE,
safe: notes/assumptions/17.md). -/
def startChecks (s : State) (x : Entry) : Except EndResult StartData :=
  match activeBank s, activeMode s x.mode with
  | some bank, some m =>
      match s.temp.reading with
      | none => .error .tempRange
      | some r =>
          match bandOfReading (boundsOfBytes (bankAt s bank).contents) r.value with
          | none => .error .tempRange
          | some band =>
              match m.bands[band]? with
              | none => .error .tempRange
              | some d =>
                  if m.unknownRow = false ∧ sourceUnknown s x.rect.val = true then .error .unknownSource
                  else .ok { bank := bank, record := m, band := band, frames := d.frames }
  | _, _ => .error .modeAbsent

/-- R43: the update a slot takes from its entry, before the latch. -/
def armedUpdate (x : Entry) (d : StartData) (changed : Nat) : Update where
  id := x.id
  rect := x.rect
  mode := x.mode
  bank := d.bank
  band := d.band
  frames := d.frames
  index := 0
  skipUnchanged := x.skipUnchanged
  notifyStart := x.notifyStart
  changed := changed

/-- R44: Target latches Pending over an entry's rectangle. -/
def latchTarget (r : Rect) (twoLevel : Bool) (s : State) : State :=
  { s with target := planePaste r (latchImage s r twoLevel) s.target }

/-- R43 to R46: arming, as one event: the latch, the count, the bank's count, the slot, and Update Started if asked. The
entry has left the queue. -/
def arm (i : Fin 8) (x : Entry) (d : StartData) (s : State) : State :=
  let latched := latchTarget x.rect.val d.record.twoLevel s
  let u := armedUpdate x d (changedPixels latched x.rect.val)
  let armed := setSlot i (.armed u) (retainBank d.bank latched)
  if x.notifyStart then offerNotice (.updateStarted u.id i.val u.band u.frames) armed else armed

/-- R32, R41: an entry taken to start leaves the queue and either arms into the lowest FREE slot or ends with the
failed check. -/
def startEntry (older : List Entry) (x : Entry) (younger : List Entry) (s : State) : State :=
  match lowestFree s with
  | none => s
  | some i =>
      match startChecks s x with
      | .ok d => arm i x d { s with queue := older ++ younger }
      | .error result => offerNotice (.updateEnded x.id result 0 0) { s with queue := older ++ younger }

/-- R27, R41: entries are taken, oldest startable first, each judged against the state the one before left. -/
def evaluateUpTo : Nat → State → State
  | 0, s => s
  | n + 1, s =>
      match firstStartable s [] s.queue with
      | none => s
      | some (older, x, younger) => evaluateUpTo n (startEntry older x younger s)

/-- R27: an evaluation of starts. Each entry taken leaves the queue, so the queue's length bounds it. -/
def evaluateStarts (s : State) : State := evaluateUpTo s.queue.length s

/-! ### The end of a slot -/

/-- R51: Shown takes Target over a rectangle. -/
def showTarget (r : Rect) (s : State) : State :=
  { s with shown := planePaste r (planeCrop r s.target) s.shown }

/-- R52, an ARMED slot: Target takes Shown over a rectangle. -/
def withdrawLatch (r : Rect) (s : State) : State :=
  { s with target := planePaste r (planeCrop r s.shown) s.target }

/-- R52, a DRIVING slot: Target and Shown become UNKNOWN over a rectangle. -/
def blurRect (r : Rect) (s : State) : State :=
  { s with target := planeFill r .unknown s.target, shown := planeFill r .unknown s.shown }

/-- R51: the completion of the update of slot `i`. -/
def completeSlot (i : Fin 8) (u : Update) (s : State) : State :=
  let ended := offerNotice (.updateEnded u.id .done u.frames u.changed) (setSlot i .free (showTarget u.rect.val s))
  releaseBank u.bank ended

/-- R52: the planes and the slot at an abort. -/
def clearSlot (i : Fin 8) (s : State) : State :=
  match s.slots[i] with
  | .free => s
  | .armed u => setSlot i .free (withdrawLatch u.rect.val s)
  | .driving u => setSlot i .free (blurRect u.rect.val s)

/-- R52: the frames a slot has driven: 0 while ARMED, its frame index while DRIVING. -/
def framesDriven : Slot → Nat
  | .free => 0
  | .armed _ => 0
  | .driving u => u.index

/-- R52: the abort of slot `i` by a Halt or a rail fault, with its notice. -/
def abortSlot (result : EndResult) (s : State) (i : Fin 8) : State :=
  match slotUpdate s.slots[i] with
  | none => s
  | some u => releaseBank u.bank (offerNotice (.updateEnded u.id result (framesDriven s.slots[i]) u.changed) (clearSlot i s))

/-- R52: every active slot aborts, lowest slot first. -/
def abortAll (result : EndResult) (s : State) : State := slotNumbers.foldl (abortSlot result) s

/-- R54 step 4: the abort of slot `i` if it is ARMED. -/
def abortIfArmed (s : State) (i : Fin 8) : State :=
  match s.slots[i] with
  | .free => s
  | .armed _ => abortSlot .halted s i
  | .driving _ => s

/-- R54 step 4: every ARMED slot aborts with HALTED. -/
def abortArmed (s : State) : State := slotNumbers.foldl abortIfArmed s

/-- R61: the abort of slot `i` by a Restart, without a notice. -/
def abandonSlot (s : State) (i : Fin 8) : State :=
  match slotUpdate s.slots[i] with
  | none => s
  | some u => releaseBankSilently u.bank (clearSlot i s)

/-- R61: every active slot aborts without a notice. -/
def abandonAll (s : State) : State := slotNumbers.foldl abandonSlot s

/-- R56: HALTING becomes HALTED when no slot is active, and every deferred Halt is answered. -/
def haltedIfIdle (s : State) : State :=
  if s.halt = .halting ∧ demand s = false then finishWork .halt .ok [] { s with halt := .halted } else s

/-- R33: every queued entry is removed, oldest first, each with a CANCELLED notice. -/
def flushQueue (s : State) : State :=
  s.queue.foldl (fun t x => offerNotice (.updateEnded x.id .cancelled 0 0) t) { s with queue := [] }

/-! ### Frame boundaries -/

/-- R47: slot `i` advances at a frame boundary in RUNNING. -/
def advanceSlot (s : State) (i : Fin 8) : State :=
  match s.slots[i] with
  | .free => s
  | .armed u => setSlot i (.driving { u with index := 1 }) s
  | .driving u => if u.index = u.frames then completeSlot i u s else setSlot i (.driving { u with index := u.index + 1 }) s

/-- R47, R55: what a frame boundary does to the slots, by the halt state. -/
def advanceSlots (s : State) : State :=
  match s.halt with
  | .running => slotNumbers.foldl advanceSlot s
  | .halting => haltedIfIdle (abortAll .halted s)
  | .halted => s

/-! ### Fences -/

/-- R122: a close of a load session clears the load fence of every queued entry. -/
def clearLoadFences (s : State) : State :=
  { s with queue := s.queue.map fun x => { x with loadFence := false } }

end Sys2Proof.Machine
end

