-- ==== Sys2Proof/Machine/Rails.lean ====
section
/-! DEFINITION. The shared operations of the Rail Sequencer and the Frame Timer (chapter 6): the entries into each rail
state, demand, and the delivery of a frame boundary. -/

namespace Sys2Proof.Machine

/-- R102: entry into FALLING. -/
def enterFalling (s : State) : State :=
  { s with rails := { Rails.reset with state := .falling, fallTimer := some s.params.fallTime } }

/-- R99: entry into HOLDING at the end of demand in ON. -/
def enterHolding (s : State) : State :=
  { s with rails := { s.rails with state := .holding, holdTimer := some s.params.holdTime } }

/-- R99, R110: demand ends in ON: the Frame Timer stops and the rails go to HOLDING or FALLING. -/
def demandEndsInOn (s : State) : State :=
  let stopped := { s with frameTimer := .stopped }
  if s.rails.fastFall = true ∨ s.params.holdTime = 0 then enterFalling stopped else enterHolding stopped

/-- R94, R51: the end of demand, judged once an evaluation has ended. -/
def judgeDemandEnd (s : State) : State :=
  if s.rails.state = .on ∧ demand s = false then demandEndsInOn s else s

/-- R107, R108: the Frame Timer sets the next boundary, one period at the present FRAME_RATE later. -/
def scheduleBoundary (s : State) : State := { s with frameTimer := .running s.params.frameRate }

/-- R42, R47, R55, R108: a frame boundary: the slots advance, the queue is evaluated, the next boundary is set, and
demand is judged. -/
def deliverBoundary (s : State) : State :=
  judgeDemandEnd (scheduleBoundary (evaluateStarts (advanceSlots s)))

/-- R98: the rails take ON; the rise phase and every timer are absent. -/
def railsOn (s : State) : State :=
  { s with rails := { Rails.reset with state := .on, fastFall := s.rails.fastFall } }

/-- R98, R107: entry into ON: with demand the Frame Timer starts and delivers the first boundary at once; without,
demand ends. -/
def enterOn (s : State) : State :=
  if demand s then deliverBoundary (railsOn s) else demandEndsInOn (railsOn s)

/-- R96: the rails take RISING, rise timer started, phase and settle timer by the power-good input. -/
def railsRising (s : State) : State :=
  { s with rails := { Rails.reset with
      state := .rising
      risePhase := some (if s.powerGood then .settling else .waiting)
      riseTimer := .running s.params.riseLimit
      settleValue := some s.params.settle
      settleTimer := if s.powerGood then some s.params.settle else none } }

/-- R96: entry into RISING; with power-good asserted and SETTLE 0 the rails pass through to ON at once. -/
def enterRising (s : State) : State :=
  if s.powerGood = true ∧ s.params.settle = 0 then enterOn (railsRising s) else railsRising s

/-- R94, R95, R97, R100, R102: demand appears. -/
def demandAppears (s : State) : State :=
  match s.rails.state with
  | .off => enterRising s
  | .rising => s
  | .on => s
  | .holding => enterOn s
  | .falling => s
  | .fault => s

/-- R27, R94: an evaluation of starts away from a frame boundary, and then the appearance of demand if it has
appeared. -/
def evaluate (s : State) : State :=
  if demand s = false ∧ demand (evaluateStarts s) = true then demandAppears (evaluateStarts s) else evaluateStarts s

/-- R103: entry into FAULT, with the aborts it causes. -/
def enterFault (cause : FaultCause) (s : State) : State :=
  let down := { s with rails := { Rails.reset with state := .fault, faultCause := some cause }, frameTimer := .stopped }
  haltedIfIdle (abortAll .railFault (offerNotice (.railFault cause s.rails.state) down))

/-- R105: a fast-fall request reaches the Rail Sequencer. -/
def fastFallRequest (s : State) : State :=
  match s.rails.state with
  | .off => s
  | .rising => { s with rails := { s.rails with fastFall := true } }
  | .on => { s with rails := { s.rails with fastFall := true } }
  | .holding => enterFalling s
  | .falling => s
  | .fault => s

end Sys2Proof.Machine
end

