-- ==== Sys2Proof/WellFormed.lean ====
section
/-! DEFINITION. Which commands can be sent at all: the checks on a command's own operands, state aside. -/

namespace Sys2Proof

/-- A sensor result is a number when its denominator is not 0 (R84 rounds a number). -/
def sensorResultWellFormed (r : SensorResult) : Bool := r.den != 0

/-- A command is well formed when its operands are values its step can take. Every byte is a received byte
(R143) and both bank names are banks (R62), so the sensor's result is the one operand with a check. -/
def instrWellFormed (i : Instr) : Bool :=
  match i with
  | .frame => true
  | .gapTimeout => true
  | .hello => true
  | .unknownCode => true
  | .getStatus => true
  | .getParameter => true
  | .setParameter => true
  | .restart => true
  | .grantNotices => true
  | .submitUpdate => true
  | .cancelUpdate => true
  | .queryUpdate => true
  | .halt => true
  | .resume => true
  | .bankOpen => true
  | .bankData => true
  | .bankVerify => true
  | .bankActivate => true
  | .bankErase => true
  | .temperatureReport => true
  | .clearFault => true
  | .loadOpen => true
  | .loadData => true
  | .loadClose => true
  | .readPixels => true
  | .fill => true
  | .copy => true
  | .jobCompletion => true
  | .verificationComplete _ => true
  | .frameBoundary => true
  | .powerGoodAssert => true
  | .powerGoodLoss => true
  | .riseTimerExpiry => true
  | .settleTimerExpiry => true
  | .holdTimerExpiry => true
  | .fallTimerExpiry => true
  | .conversionStart => true
  | .conversionComplete r => sensorResultWellFormed r
  | .ageRise => true
  | .readingBecomesStale => true
  | .replyBegin => true
  | .replySent => true
  | .noticeBegin => true
  | .noticeSent => true
  | .pinReset => true
  | .startUp => true
  | .startUpEnd => true
  | .receivedByte _ => true
  | .jobWritesPixel => true

end Sys2Proof
end

