-- ==== Sys2Proof/Machine/Resets.lean ====
section
/-! DEFINITION. The two resets and start-up (chapter 11.4, 11.5): the Restart taking effect, PIN_RESET, START_UP and
START_UP_END. -/

namespace Sys2Proof.Machine

/-- R81: a bank at a Restart, its slots already freed. -/
def restartBank (v : Bank) : Bank :=
  match v.state with
  | .empty => Bank.none
  | .loading => Bank.none
  | .verifying => Bank.none
  | .loaded => { v with refCount := 0 }
  | .active => { v with refCount := 0 }
  | .retiring => { v with state := .loaded, refCount := 0 }

/-- R112: the rails at a Restart; a fall already in progress keeps its timer. -/
def restartRails (r : Rails) : Rails :=
  match r.state with
  | .off => Rails.reset
  | .rising => { Rails.reset with state := .falling, fallTimer := some Params.default.fallTime }
  | .on => { Rails.reset with state := .falling, fallTimer := some Params.default.fallTime }
  | .holding => { Rails.reset with state := .falling, fallTimer := some Params.default.fallTime }
  | .falling => { Rails.reset with state := .falling, fallTimer := r.fallTimer }
  | .fault => Rails.reset

/-- R83, R92: a conversion starts, and the next start is set SAMPLE_PERIOD later. -/
def startConversion (s : State) : State :=
  { s with temp := { s.temp with converting := true, nextStart := some s.params.samplePeriod } }

/-- R183: every block takes its after-Restart values and the parameters take their defaults, as one event (R13, R38,
R61, R81, R92, R112, R129, R142, R165, R175, R179). -/
def restartTakesEffect (s : State) : State :=
  let t := abandonAll s
  { pending := t.pending
    phase := t.phase
    powerGood := t.powerGood
    startUps := t.startUps
    params := .default
    pendingPlane := t.pendingPlane
    target := t.target
    shown := t.shown
    queue := []
    idCounter := 1
    slots := t.slots
    halt := .running
    bankA := restartBank t.bankA
    bankB := restartBank t.bankB
    temp := { reading := none, converting := true, nextStart := some Params.default.samplePeriod }
    rails := restartRails t.rails
    frameTimer := .stopped
    load := none
    raster := .reset
    notices := .reset
    link := .afterReset .restart }

/-- PIN_RESET: R184. Everything takes its pin-reset value; the queue of commands, the level of the power-good input and
the count of start-ups are outside the part and stay. -/
def execPinReset (s : State) : Host.Outcome State Fault Refusal :=
  .next { State.reset with pending := s.pending, powerGood := s.powerGood, startUps := s.startUps }

/-- START_UP: R185, R92. The reset input is released: start-up begins and the first conversion starts. -/
def execStartUp (s : State) : Host.Outcome State Fault Refusal :=
  match s.phase with
  | .resetHeld => .next (startConversion { s with phase := .startUp })
  | .startUp => .next s
  | .running => .next s

/-- R185: the receiver at the end of start-up: in HUNT, and due to discard the byte of a character that straddles it.
Whether there is one is a free value, fresh at each start-up (DESIGN CHOICE, safe: notes/assumptions/23.md). -/
def receiverAtStartUpEnd (s : State) : State :=
  { s with
    startUps := s.startUps + 1
    link := { s.link with receiver := .hunt, straddling := Config.characterInProgress s.startUps } }

/-- START_UP_END: R185. -/
def execStartUpEnd (s : State) : Host.Outcome State Fault Refusal :=
  match s.phase with
  | .resetHeld => .next s
  | .startUp => .next (receiverAtStartUpEnd { s with phase := .running })
  | .running => .next s

end Sys2Proof.Machine
end

