-- ==== Sys2Proof/Machine/ControlLine.lean ====
section
/-! DEFINITION. The Control Line Interface (chapter 9) and the transmitter's side of the Notice Queue (chapter 10): FRAME,
GAP_TIMEOUT, HELLO, UNKNOWN_CODE, GRANT_NOTICES, REPLY_BEGIN, REPLY_SENT, NOTICE_BEGIN, NOTICE_SENT, RECEIVED_BYTE. -/

namespace Sys2Proof.Machine

/-! ### Hello -/

/-- R151, R186, R190: the payload of an accepted Hello's reply. -/
def helloPayload (cause : Option ResetCause) : List Byte :=
  statusPayload .ok
    (leBytes 2 Config.vendorCode ++ leBytes 2 Config.partCode ++
      [byteOf Config.siliconRevision, byteOf Config.protocolVersion, byteOf 8, byteOf Config.queueCapacity, byteOf 2] ++
      leBytes 4 Config.bankBytes ++
      [byteOf Config.jobCapacity, byteOf Config.tableCapacity, byteOf Config.cacheCapacity, byteOf Config.noticeCapacity] ++
      leBytes 2 Config.largestPayload ++ [resetCauseByte cause])

/-- R151: the reply of an accepted Hello, cached when it has been sent. -/
def helloAnswer (seq : Byte) (cause : Option ResetCause) : QueuedReply where
  reply := { seq := seq, code := requestCodeByte .hello, payload := helloPayload cause }
  origin := .hello
  effect := .nothing

/-- R151: a Hello accepted while the session is CLOSED. Its counters fall to 0 before its reply can be counted as not
produced (DEDUCED, unsafe: notes/assumptions/15.md). -/
def openSession (seq : Byte) (s : State) : State :=
  queueAnswer (helloAnswer seq (some s.link.resetCause))
    { s with link := { s.link with counters := .zero, sessionOpen := true } }

/-- R152, R162: whether the transmitter has begun the reply of an entry. -/
def replyBegun (tx : Transmitter) (r : Request) : Bool :=
  match tx with
  | .idle => false
  | .sendingReply q _ => decide (q.origin = .entry) && decide (q.reply.seq = r.seq)
  | .sendingNotice _ _ => false

/-- R152 steps 1 to 3: what a reopening Hello leaves of the Request Table. -/
def reopenTable (tx : Transmitter) : List Request → List Request
  | [] => []
  | r :: t =>
      match r.state with
      | .waiting => reopenTable tx t
      | .executing => if replyBegun tx r then r :: reopenTable tx t else reopenTable tx t
      | .deferred _ => { r with orphaned := true } :: reopenTable tx t

/-- R162: a reply begun before a reopening Hello is not cached. -/
def reopenTransmitter : Transmitter → Transmitter
  | .idle => .idle
  | .sendingReply q _ => .sendingReply q false
  | .sendingNotice seq n => .sendingNotice seq n

/-- R152: a Hello accepted while the session is OPEN reopens it. -/
def reopenSession (seq : Byte) (s : State) : State :=
  queueAnswer (helloAnswer seq none)
    { s with
      notices := { s.notices with credit := 0 }
      link := { s.link with
        table := reopenTable s.link.transmitter s.link.table
        replies := []
        cache := []
        counters := .zero
        transmitter := reopenTransmitter s.link.transmitter } }

/-- R151, R155: the cached reply of a SEQ, if any. -/
def cachedReply (cache : List Reply) (seq : Byte) : Option Reply := cache.find? fun r => decide (r.seq = seq)

/-- R151: a Hello that is executed: refused, or accepted in either session state. -/
def judgeHello (seq : Byte) (payload : List Byte) (s : State) : State :=
  match helloFields payload with
  | .error st => queueAnswer (statusAnswer seq (requestCodeByte .hello) st) s
  | .ok _ => if s.link.sessionOpen then reopenSession seq s else openSession seq s

/-- R151 to R153: a checked Hello: discarded in the Restart interval, answered from the cache on a matching retry, else
judged by its checks. -/
def takeHello (seq : Byte) (retry : Bool) (payload : List Byte) (s : State) : State :=
  if s.link.restartTaken then s
  else
    match cachedReply s.link.cache seq with
    | some r =>
        if retry = true ∧ s.link.sessionOpen = true ∧ r.code = requestCodeByte .hello then queueAnswer (resendAnswer r) s
        else judgeHello seq payload s
    | none => judgeHello seq payload s

/-! ### Admission -/

/-- R155: a request refused for want of room: answered NOBUF if the reply queue has room, and counted once either way
(DEDUCED, unsafe: notes/assumptions/10.md). -/
def answerNobuf (seq code : Byte) (s : State) : State :=
  if s.link.replies.length < Config.answerLimit then countNobuf (queueReply (statusAnswer seq code .nobuf) s)
  else countNobuf s

/-- R155: a request taken as new. -/
def takeAsNew (seq code : Byte) (payload : List Byte) (s : State) : State :=
  if s.link.table.length < Config.tableCapacity then
    { s with link := { s.link with table := s.link.table ++
        [{ seq := seq, code := code, payload := payload, state := .waiting, orphaned := false }] } }
  else answerNobuf seq code s

/-- R155: the cached reply of the SEQ is removed and the request is taken as new, removed even where the table turns
out to be full (DEDUCED, unsafe: notes/assumptions/16.md). -/
def replaceCached (seq code : Byte) (payload : List Byte) (s : State) : State :=
  takeAsNew seq code payload { s with link := { s.link with cache := cacheRemove s.link.cache seq } }

/-- R155: a checked request with the RETRY flag set. -/
def admitRetry (seq code : Byte) (payload : List Byte) (s : State) : State :=
  match cachedReply s.link.cache seq with
  | some r => if r.code = code then queueAnswer (resendAnswer r) s else replaceCached seq code payload s
  | none => if outstandingWith s.link.table seq then s else takeAsNew seq code payload s

/-- R155: a checked request with the RETRY flag clear. -/
def admitFresh (seq code : Byte) (payload : List Byte) (s : State) : State :=
  if outstandingWith s.link.table seq then queueAnswer (statusAnswer seq code .seqBusy) s
  else
    match cachedReply s.link.cache seq with
    | some _ => replaceCached seq code payload s
    | none => takeAsNew seq code payload s

/-- R150, R155: a checked request other than Hello. -/
def takeRequest (seq code : Byte) (retry : Bool) (payload : List Byte) (s : State) : State :=
  if s.link.sessionOpen then
    if retry then admitRetry seq code payload s else admitFresh seq code payload s
  else queueAnswer (statusAnswer seq code .notOpen) s

/-! ### The frame check -/

/-- R147, R188: whether the CRC of a completed frame matches; LEN is part of what it covers. -/
def crcMatches (len : Nat) (held : List Byte) (crcLow crcHigh : Byte) : Bool :=
  decide ((crc16 (leBytes 2 len ++ held)).toNat = crcLow.toNat + 256 * crcHigh.toNat)

/-- R187: with the RETRY flag set aside, CLASS marks a request. -/
def classIsRequest (cls : Byte) : Bool := decide (cls &&& 0x7F = 0x01)

/-- R187: the RETRY flag. -/
def classIsRetry (cls : Byte) : Bool := cls.getLsbD 7

/-- R147: the test of a completed frame, the receiver already back in HUNT, and the handling of a checked request. -/
def testFrame (len : Nat) (held : List Byte) (crcLow crcHigh : Byte) (s : State) : State :=
  if crcMatches len held crcLow crcHigh then
    match held with
    | cls :: seq :: code :: payload =>
        if classIsRequest cls then
          if requestCodeOf code = some .hello then takeHello seq (classIsRetry cls) payload s
          else takeRequest seq code (classIsRetry cls) payload s
        else countClassError s
    | _ => s
  else countCrcError s

/-- R147: the check of the frame the receiver has completed, if it has completed one. -/
def checkFrame (s : State) : State :=
  match s.link.receiver with
  | .complete len held crcLow crcHigh => testFrame len held crcLow crcHigh (setReceiver .hunt s)
  | _ => s

/-- R150, R151: whether the receiver has completed a frame that is a checked Hello. -/
def helloCompleted (s : State) : Bool :=
  match s.link.receiver with
  | .complete len held crcLow crcHigh =>
      match held with
      | cls :: _ :: code :: _ =>
          crcMatches len held crcLow crcHigh && classIsRequest cls && decide (requestCodeOf code = some .hello)
      | _ => false
  | _ => false

/-- FRAME: R147, R150, R155. The frame completed in CHECK is tested, and a checked request is handled; with no frame
complete this step does not occur (DESIGN CHOICE, safe: notes/assumptions/1.md, 4.md). -/
def execFrame (s : State) : Host.Outcome State Fault Refusal :=
  if s.phase = .running then .next (checkFrame s) else .next s

/-- HELLO: R151 to R153. A checked Hello is executed at its frame's check; with no Hello complete this step does not
occur. -/
def execHello (s : State) : Host.Outcome State Fault Refusal :=
  if s.phase = .running ∧ helloCompleted s = true then .next (checkFrame s) else .next s

/-- GAP_TIMEOUT: R148. More than 10 ms pass inside a frame: it is given up and the gap error counter rises. In HUNT,
and after the last CRC byte, no time is measured. -/
def execGapTimeout (s : State) : Host.Outcome State Fault Refusal :=
  if s.phase = .running then
    match s.link.receiver with
    | .hunt => .next s
    | .complete _ _ _ _ => .next s
    | .length _ => .next (countGapError (setReceiver .hunt s))
    | .body _ _ => .next (countGapError (setReceiver .hunt s))
    | .check _ _ _ => .next (countGapError (setReceiver .hunt s))
  else .next s

/-- R146: a byte received in HUNT. -/
def huntByte (value : Byte) (s : State) : State :=
  if value = 0x5A then setReceiver (.length none) s else s

/-- R146: LEN is known; outside 3 to 1,027 the frame is discarded and the length error counter rises. -/
def lengthKnown (len : Nat) (s : State) : State :=
  if 3 ≤ len ∧ len ≤ 1027 then setReceiver (.body len []) s else countLengthError (setReceiver .hunt s)

/-- R146: the body after one more byte: CHECK once LEN bytes are held. -/
def bodyHeld (len : Nat) (held : List Byte) : Receiver :=
  if held.length < len then .body len held else .check len held none

/-- R146: one received byte, by the receiver's state. A byte that comes while a completed frame waits for its check is
taken after that check, in HUNT (R147 takes the check at the completion of the frame). -/
def takeByte (value : Byte) (s : State) : State :=
  match s.link.receiver with
  | .hunt => huntByte value s
  | .length none => setReceiver (.length (some value)) s
  | .length (some low) => lengthKnown (low.toNat + 256 * value.toNat) s
  | .body len held => setReceiver (bodyHeld len (held ++ [value])) s
  | .check len held none => setReceiver (.check len held (some value)) s
  | .check len held (some low) => setReceiver (.complete len held low value) s
  | .complete _ _ _ _ => huntByte value (checkFrame s)

/-- R185: the byte whose character straddled the end of start-up has come and is discarded. -/
def straddleEnds (s : State) : State := { s with link := { s.link with straddling := false } }

/-- RECEIVED_BYTE: R143, R146. During reset and start-up every byte is discarded (R184, R185), and so is the byte whose
character straddles the end of start-up (R185). -/
def execReceivedByte (value : Byte) (s : State) : Host.Outcome State Fault Refusal :=
  if s.phase = .running then
    if s.link.straddling then .next (straddleEnds s) else .next (takeByte value s)
  else .next s

/-! ### The dispatcher's own requests -/

/-- UNKNOWN_CODE: R158. The entry taken names no request: it is refused, its payload not examined. -/
def execUnknownCode (s : State) : Host.Outcome State Fault Refusal :=
  match nextRequest s with
  | none => .next s
  | some r => if requestCodeOf r.code = none then .next (answerEntry r .unknownCode [] .nothing s) else .next s

/-- R170: a grant added to the credit, up to 255. -/
def grant (r : Request) (s : State) : State :=
  match grantFields r.payload with
  | .error st => answerEntry r st [] .nothing s
  | .ok n =>
      let credit := min 255 (s.notices.credit + n)
      answerEntry r .ok [byteOf credit] .nothing { s with notices := { s.notices with credit := credit } }

/-- GRANT_NOTICES: R170. -/
def execGrantNotices (s : State) : Host.Outcome State Fault Refusal := .next (dispatch .grantNotices grant s)

/-! ### The transmitter -/

/-- The transmitter takes a state. -/
def setTransmitter (tx : Transmitter) (s : State) : State := { s with link := { s.link with transmitter := tx } }

/-- REPLY_BEGIN: R161, R162. With the line free, the oldest reply leaves the reply queue and is begun. -/
def execReplyBegin (s : State) : Host.Outcome State Fault Refusal :=
  match s.phase, s.link.transmitter, s.link.replies with
  | .running, .idle, q :: rest => .next { s with link := { s.link with replies := rest, transmitter := .sendingReply q true } }
  | _, _, _ => .next s

/-- R154, R162: the entry whose reply has been sent leaves the table. -/
def removeAnswered (seq : Byte) : List Request → List Request
  | [] => []
  | r :: t => if r.seq = seq ∧ r.orphaned = false ∧ r.state = .executing then t else r :: removeAnswered seq t

/-- R151, R156, R162: the Request Table and the Reply Cache at the end of a reply. -/
def settleReply (q : QueuedReply) (cacheable : Bool) (s : State) : State :=
  match q.origin with
  | .entry =>
      { s with link := { s.link with
          table := removeAnswered q.reply.seq s.link.table
          cache := if cacheable then cacheAdd s.link.cache q.reply else s.link.cache } }
  | .hello =>
      if cacheable then
        { s with link := { s.link with
            cache := if outstandingWith s.link.table q.reply.seq then cacheRemove s.link.cache q.reply.seq
              else cacheAdd (cacheRemove s.link.cache q.reply.seq) q.reply } }
      else s
  | .forgotten => s

/-- R144: the line changes rate: a frame in progress in the receiver is discarded and not counted. -/
def changeLineRate (baud : Nat) (s : State) : State :=
  { s with link := { s.link with lineRate := baud, receiver := .hunt } }

/-- R144, R160, R162: what follows the last byte of a reply. A frame already complete is no partial frame: its check,
due since its last byte, comes before the line changes rate (DESIGN CHOICE, safe: notes/assumptions/4.md). -/
def replyEffect (effect : ReplyEffect) (s : State) : State :=
  match effect with
  | .nothing => s
  | .lineRate baud => changeLineRate baud (checkFrame s)
  | .restart => restartTakesEffect s

/-- REPLY_SENT: R162. The last byte of a reply is sent. -/
def execReplySent (s : State) : Host.Outcome State Fault Refusal :=
  match s.link.transmitter with
  | .sendingReply q cacheable => .next (replyEffect q.effect (setTransmitter .idle (settleReply q cacheable s)))
  | .idle => .next s
  | .sendingNotice _ _ => .next s

/-- R169: after the removal of a notice, a Notice Loss notice takes the freed place if drops are unreported. -/
def placeLoss (q : NoticeQueue) : NoticeQueue :=
  if 0 < q.lost then { q with items := q.items ++ [.noticeLoss q.lost], lost := 0 } else q

/-- R171: the head of the Notice Queue is removed, the credit falls and the sequence counter advances. -/
def noticeTaken (rest : List Notice) (q : NoticeQueue) : NoticeQueue :=
  placeLoss { q with items := rest, credit := q.credit - 1, seqCounter := q.seqCounter + 1 }

/-- R171: the transmitter begins a notice, which takes the notice sequence counter's value as its SEQ. -/
def beginNotice (n : Notice) (rest : List Notice) (s : State) : State :=
  setTransmitter (.sendingNotice s.notices.seqCounter n) { s with notices := noticeTaken rest s.notices }

/-- NOTICE_BEGIN: R162, R171. The line is free, no reply waits, a notice waits and the credit is above 0. -/
def execNoticeBegin (s : State) : Host.Outcome State Fault Refusal :=
  match s.phase, s.link.transmitter, s.link.replies, s.notices.items with
  | .running, .idle, [], n :: rest => if 0 < s.notices.credit then .next (beginNotice n rest s) else .next s
  | _, _, _, _ => .next s

/-- NOTICE_SENT: R162. The last byte of a notice frame is sent and the line becomes free. -/
def execNoticeSent (s : State) : Host.Outcome State Fault Refusal :=
  match s.link.transmitter with
  | .sendingNotice _ _ => .next (setTransmitter .idle s)
  | .idle => .next s
  | .sendingReply _ _ => .next s

end Sys2Proof.Machine
end

