-- ==== Sys2Proof/Machine/DriveTable.lean ====
section
/-! DEFINITION. The Drive Table's own steps (chapter 3): HALT, RESUME and FRAME_BOUNDARY. -/

namespace Sys2Proof.Machine

/-- R54, R57: step 2, the flush, if asked. -/
def flushIfAsked (flush : Bool) (s : State) : State := if flush then flushQueue s else s

/-- R54, R57: step 4: when the rails are not ON, every ARMED slot aborts at once. -/
def abortUnlessOn (s : State) : State := if s.rails.state = .on then s else abortArmed s

/-- R54, R57: a Halt taken in RUNNING or HALTING: HALTING, the flush, the fast-fall request, the aborts while no frames
run, and the reply: at once when no slot is active, else with the others (R56). The entry is DEFERRED on the halt, and
R56 answers it at once when nothing remains to wait for. -/
def beginHalt (flush : Bool) (s : State) : State :=
  haltedIfIdle (abortUnlessOn (fastFallRequest (flushIfAsked flush (deferEntry .halt { s with halt := .halting }))))

/-- R57: a Halt taken in HALTED. -/
def haltAgain (r : Request) (flush : Bool) (s : State) : State :=
  answerEntry r .ok [] .nothing (fastFallRequest (flushIfAsked flush s))

/-- R54, R57: a Halt that the dispatcher takes. -/
def takeHalt (r : Request) (s : State) : State :=
  match haltFields r.payload with
  | .error st => answerEntry r st [] .nothing s
  | .ok flush =>
      match s.halt with
      | .running => beginHalt flush s
      | .halting => beginHalt flush s
      | .halted => haltAgain r flush s

/-- HALT: R54, R57. -/
def execHalt (s : State) : Host.Outcome State Fault Refusal := .next (dispatch .halt takeHalt s)

/-- R58: a Resume that the dispatcher takes. -/
def takeResume (r : Request) (s : State) : State :=
  match noFields r.payload with
  | .error st => answerEntry r st [] .nothing s
  | .ok _ =>
      match s.halt with
      | .running => answerEntry r .ok [] .nothing s
      | .halting => answerEntry r .busy [] .nothing s
      | .halted => evaluate (answerEntry r .ok [] .nothing { s with halt := .running })

/-- RESUME: R58. -/
def execResume (s : State) : Host.Outcome State Fault Refusal := .next (dispatch .resume takeResume s)

/-- FRAME_BOUNDARY: R47, R108. The Frame Timer delivers a boundary only while it is RUNNING. -/
def execFrameBoundary (s : State) : Host.Outcome State Fault Refusal :=
  match s.frameTimer with
  | .stopped => .next s
  | .running _ => .next (deliverBoundary s)

end Sys2Proof.Machine
end

