-- ==== Sys2Proof/Machine/Loader.lean ====
section
/-! DEFINITION. The Pixel Loader and Read Pixels (chapter 7): LOAD_OPEN, LOAD_DATA, LOAD_CLOSE and READ_PIXELS. -/

namespace Sys2Proof.Machine

/-- R117: a new session, its cursor at the first pixel of the order. -/
def newSession (window : Region) (order : Fin 8) : LoadSession where
  window := window
  order := order
  written := 0
  discarded := 0

/-- R117: the load session opens. -/
def openLoad (window : Region) (order : Fin 8) (s : State) : State := { s with load := some (newSession window order) }

/-- R117, R118: a Load Open that the dispatcher takes. -/
def takeLoadOpen (r : Request) (s : State) : State :=
  match loadOpenFields r.payload with
  | .error st => answerEntry r st [] .nothing s
  | .ok (window, order) =>
      match s.load with
      | none => answerEntry r .ok (flagByte false :: (leBytes 4 0 ++ leBytes 4 0)) .nothing (openLoad window order s)
      | some old =>
          evaluate (answerEntry r .ok (flagByte true :: (leBytes 4 old.written ++ leBytes 4 old.discarded)) .nothing
            (openLoad window order (clearLoadFences s)))

/-- LOAD_OPEN: R117, R118. -/
def execLoadOpen (s : State) : Host.Outcome State Fault Refusal := .next (dispatch .loadOpen takeLoadOpen s)

/-- R113: the window is full when the written count equals its area. -/
def windowFull (l : LoadSession) : Bool := decide (rectArea l.window.val ≤ l.written)

/-- R120: one pixel of a Load Data: written at the cursor, or dropped when the window is full. -/
def placePixel (at_ : LoadSession × Plane Level) (level : Level) : LoadSession × Plane Level :=
  if windowFull at_.1 then ({ at_.1 with discarded := min Config.counter32Max (at_.1.discarded + 1) }, at_.2)
  else
    let pixel := cursorPixel at_.1.window.val at_.1.order at_.1.written
    ({ at_.1 with written := at_.1.written + 1 }, planeSet pixel.1 pixel.2 level at_.2)

/-- R120: the pixels of a Load Data, in order. -/
def placePixels (levels : List Level) (l : LoadSession) (p : Plane Level) : LoadSession × Plane Level :=
  levels.foldl placePixel (l, p)

/-- R120, R190: the fields of a Load Data reply: accepted, discarded, full and written. -/
def loadDataRecord (count : Nat) (before after : LoadSession) : List Byte :=
  leBytes 2 (after.written - before.written) ++ leBytes 2 (count - (after.written - before.written)) ++
    flagByte (windowFull after) :: leBytes 4 after.written

/-- R119, R120: a Load Data that the dispatcher takes. -/
def takeLoadData (r : Request) (s : State) : State :=
  match loadDataFields r.payload with
  | .error st => answerEntry r st [] .nothing s
  | .ok levels =>
      match s.load with
      | none => answerEntry r .noLoad [] .nothing s
      | some l =>
          let placed := placePixels levels l s.pendingPlane
          answerEntry r .ok (loadDataRecord levels.length l placed.1) .nothing
            { s with load := some placed.1, pendingPlane := placed.2 }

/-- LOAD_DATA: R119, R120. -/
def execLoadData (s : State) : Host.Outcome State Fault Refusal := .next (dispatch .loadData takeLoadData s)

/-- R121, R190: the fields of a Load Close reply: written, remaining and discarded. -/
def loadCloseRecord (l : LoadSession) : List Byte :=
  leBytes 4 l.written ++ leBytes 4 (rectArea l.window.val - l.written) ++ leBytes 4 l.discarded

/-- R121, R122: a Load Close that the dispatcher takes. -/
def takeLoadClose (r : Request) (s : State) : State :=
  match noFields r.payload with
  | .error st => answerEntry r st [] .nothing s
  | .ok _ =>
      match s.load with
      | none => answerEntry r .noLoad [] .nothing s
      | some l =>
          evaluate (clearLoadFences { answerEntry r .ok (loadCloseRecord l) .nothing s with load := none })

/-- LOAD_CLOSE: R121, R122. -/
def execLoadClose (s : State) : Host.Outcome State Fault Refusal := .next (dispatch .loadClose takeLoadClose s)

/-- Chapter 12.5: levels packed two to a byte, the first in bits 7 to 4; an odd last one has 0 in bits 3 to 0. -/
def packLevels : List Level → List Byte
  | [] => []
  | [a] => [byteOf (16 * a.val)]
  | a :: b :: t => byteOf (16 * a.val + b.val) :: packLevels t

/-- R124: the values of a plane over a rectangle, in row-major order from the top left. -/
def readRect {α : Type} (p : Plane α) (r : Rect) : List α :=
  (rectPixels r).filterMap fun q => planeAt p q.1 q.2

/-- R124, R190: the fields of a Read Pixels reply. -/
def readPixelsRecord (s : State) (ofShown : Bool) (r : Rect) : List Byte :=
  flagByte ofShown :: (rectBytes r ++
    (if ofShown then (readRect s.shown r).map pixelByte else packLevels (readRect s.pendingPlane r)))

/-- R123, R124: a Read Pixels that the dispatcher takes. -/
def takeReadPixels (r : Request) (s : State) : State :=
  match readPixelsFields r.payload with
  | .error st => answerEntry r st [] .nothing s
  | .ok (ofShown, rect) => answerEntry r .ok (readPixelsRecord s ofShown rect.val) .nothing s

/-- READ_PIXELS: R123 to R126. -/
def execReadPixels (s : State) : Host.Outcome State Fault Refusal := .next (dispatch .readPixels takeReadPixels s)

end Sys2Proof.Machine
end

