-- ==== Sys2Proof/Machine/Outputs.lean ====
section
/-! DEFINITION. The output pins (R194), each a function of the state: rail-enable, BUSY, the outgoing line and the panel
drive port (DESIGN CHOICE, safe: notes/assumptions/13.md, 14.md). -/

namespace Sys2Proof.Machine

/-- R93: RAIL_EN is asserted in RISING, ON and HOLDING. -/
def railEnable (s : State) : Bool :=
  match s.rails.state with
  | .off => false
  | .rising => true
  | .on => true
  | .holding => true
  | .falling => false
  | .fault => false

/-- R59: BUSY is asserted while at least one slot is ARMED or DRIVING. -/
def busyOutput (s : State) : Bool := demand s

/-- R162: the frame on the outgoing line, none while the line is idle and held high. -/
def frameOnLine (s : State) : Option (List Byte) :=
  match s.link.transmitter with
  | .idle => none
  | .sendingReply q _ => some (frameBytes replyClass q.reply.seq q.reply.code q.reply.payload)
  | .sendingNotice seq n => some (frameBytes noticeClass seq (noticeCode n) (noticePayload n))

/-- R48, R49: the mode record a slot drives from: its mode, in its own bank. -/
def slotMode (s : State) (u : Update) : Option ModeRecord := modeOfBytes (bankAt s u.bank).contents u.mode

/-- R48 to R50: the drive of a pixel inside the rectangle of a DRIVING slot, from its Shown and Target values. -/
def pixelDrive (s : State) (u : Update) (old new : Pixel) : Drive :=
  if u.skipUnchanged ∧ new = old then .neutral
  else
    match new, slotMode s u with
    | .level l, some m => phaseDrive (transitionOf m u.band old l) u.index
    | _, _ => .neutral

/-- The DRIVING slot whose rectangle holds a pixel, if any; by R40 there is at most one. -/
def drivingAt (s : State) (x y : Nat) : Option Update :=
  s.slots.toList.findSome? fun
    | .driving u => if rectContains u.rect.val x y then some u else none
    | .armed _ => none
    | .free => none

/-- The panel drive port in the frame that runs: the drive of pixel (x, y), or none when no frame is running and the
port applies no drive (R48, R50) (DEDUCED, safe: notes/assumptions/20.md). -/
def panelDrive (s : State) (x y : Nat) : Option Drive :=
  match s.frameTimer with
  | .stopped => none
  | .running _ =>
      match drivingAt s x y, planeAt s.shown x y, planeAt s.target x y with
      | some u, some old, some new => some (pixelDrive s u old new)
      | _, _, _ => some .neutral

end Sys2Proof.Machine
end

