-- ==== Sys2Proof/Machine/Temperature.lean ====
section
/-! DEFINITION. The Temperature Monitor (chapter 5): TEMPERATURE_REPORT, CONVERSION_START, CONVERSION_COMPLETE, AGE_RISE
and READING_BECOMES_STALE, and what a change of TEMP_SOURCE or STALE_LIMIT does (R88, R90). -/

namespace Sys2Proof.Machine

/-- R84, R85: a reading is set with age 0; an event that makes the reading valid causes an evaluation (R89), one that
finds it valid does not. -/
def setReading (value : Int) (s : State) : State :=
  let t := { s with temp := { s.temp with reading := some { value := value, age := 0 } } }
  if readingValid s then t else evaluate t

/-- R84: the result rounded to the nearest degree, a half upward, and limited to -40 to +85 (DESIGN CHOICE, safe:
notes/assumptions/11.md). -/
def roundSensor (r : SensorResult) : Int :=
  max (-40) (min 85 ((2 * r.num + r.den) / (2 * r.den)))

/-- CONVERSION_START: R83. At the next-conversion-start time, with source INTERNAL, a conversion begins.
One that finds CONVERTING renews the schedule (DESIGN CHOICE, safe: notes/assumptions/18.md). -/
def execConversionStart (s : State) : Host.Outcome State Fault Refusal :=
  match s.params.tempSource, s.temp.nextStart with
  | .fromSensor, some _ => .next (startConversion s)
  | _, _ => .next s

/-- CONVERSION_COMPLETE: R84. A sensor result that is no number stops the step (Fault.sensorResultNotANumber). -/
def execConversionComplete (result : SensorResult) (s : State) : Host.Outcome State Fault Refusal :=
  if sensorResultWellFormed result then
    if s.temp.converting then .next (setReading (roundSensor result) { s with temp := { s.temp with converting := false } })
    else .next s
  else .fault .sensorResultNotANumber

/-- R85: a Temperature Report that the dispatcher takes. -/
def reportTemperature (r : Request) (s : State) : State :=
  match temperatureFields r.payload with
  | .error st => answerEntry r st [] .nothing s
  | .ok value =>
      match s.params.tempSource with
      | .fromSensor => answerEntry r .wrongState [] .nothing s
      | .fromHost => setReading value (answerEntry r .ok [] .nothing s)

/-- TEMPERATURE_REPORT: R85. -/
def execTemperatureReport (s : State) : Host.Outcome State Fault Refusal :=
  .next (dispatch .temperatureReport reportTemperature s)

/-- R86, R87: one further second: the age rises, stopping at 65,535; when it rises from STALE_LIMIT the reading becomes
stale and a Temp Stale notice is queued. -/
def ageReading (r : Reading) (s : State) : State :=
  let age := min Config.counter16Max (r.age + 1)
  let t := { s with temp := { s.temp with reading := some { r with age := age } } }
  if r.age = s.params.staleLimit then offerNotice (.tempStale r.value age) t else t

/-- AGE_RISE: R86, and R87 where the age rises past STALE_LIMIT (DEDUCED, safe: notes/assumptions/6.md). -/
def execAgeRise (s : State) : Host.Outcome State Fault Refusal :=
  match s.temp.reading with
  | none => .next s
  | some r => .next (ageReading r s)

/-- READING_BECOMES_STALE: R87. The age rises from STALE_LIMIT; at any other age this step does not occur. -/
def execReadingBecomesStale (s : State) : Host.Outcome State Fault Refusal :=
  match s.temp.reading with
  | none => .next s
  | some r => if r.age = s.params.staleLimit then .next (ageReading r s) else .next s

/-- R90: TEMP_SOURCE takes a different value, already stored. -/
def sourceChanged (s : State) : State :=
  let t := { s with temp := { reading := none, converting := false, nextStart := none } }
  match s.params.tempSource with
  | .fromSensor => startConversion t
  | .fromHost => t

/-- R88: STALE_LIMIT takes a new value, already stored; `wasValid` is what the reading was under the old limit. -/
def limitChanged (wasValid : Bool) (s : State) : State :=
  match s.temp.reading with
  | none => s
  | some r =>
      if wasValid = true ∧ readingValid s = false then offerNotice (.tempStale r.value r.age) s
      else if wasValid = false ∧ readingValid s = true then evaluate s
      else s

end Sys2Proof.Machine
end

