-- ==== Sys2Proof/Machine/Parameters.lean ====
section
/-! DEFINITION. Parameters, status and the Restart request (chapter 11): GET_STATUS, GET_PARAMETER, SET_PARAMETER and
RESTART. -/

namespace Sys2Proof.Machine

/-! ### Get Status -/

/-- R190: a slot record, zeros for a FREE slot. -/
def slotRecord (x : Slot) : List Byte :=
  let fields (state : Byte) (u : Update) : List Byte :=
    state :: (leBytes 2 u.id ++ [byteOf u.index, byteOf u.frames, bankByte u.bank, byteOf u.band])
  match x with
  | .free => [0, 0, 0, 0, 0, 0, 0]
  | .armed u => fields 1 u
  | .driving u => fields 2 u

/-- R190: a bank record; an absent declared size is 0. -/
def bankRecord (v : Bank) : List Byte :=
  bankStateByte v.state :: byteOf v.refCount ::
    (leBytes 4 v.contents.length ++ leBytes 4 (match v.declared with
      | none => 0
      | some d => d.size))

/-- R91, R190: whether a reading is present, its value, its age and whether it is valid. -/
def readingRecord (s : State) : List Byte :=
  match s.temp.reading with
  | none => [0, 0, 0, 0, 0]
  | some r => 1 :: temperatureByte r.value :: (leBytes 2 r.age ++ [flagByte (readingValid s)])

/-- R127, R190: the load session, zeros while CLOSED. -/
def loadRecord (l : Option LoadSession) : List Byte :=
  match l with
  | none => List.replicate 18 0
  | some x => 1 :: (rectBytes x.window.val ++ byteOf x.order.val :: (leBytes 4 x.written ++ leBytes 4 x.discarded))

/-- R140: the number of the RUNNING job, or 0. -/
def runningJobNumber (r : Raster) : Nat :=
  match r.jobs with
  | [] => 0
  | j :: _ => match j.progress with
    | .queued => 0
    | .running _ _ => j.number

/-- R140: the job counter, 0 for EXHAUSTED. -/
def jobCounterNat : JobCounter → Nat
  | .next n => n
  | .exhausted => 0

/-- R180: the number of DEFERRED Halt requests, orphaned entries included. -/
def deferredHalts (s : State) : Nat := (s.link.table.filter fun r => decide (r.state = .deferred .halt)).length

/-- R190: the link counters, two bytes each. -/
def counterRecord (k : LinkCounters) : List Byte :=
  leBytes 2 k.crc ++ leBytes 2 k.gap ++ leBytes 2 k.length ++ leBytes 2 k.cls ++ leBytes 2 k.nobuf

/-- R190: the Frame Timer, 0 STOPPED, 1 RUNNING. -/
def frameTimerByte : FrameTimer → Byte
  | .stopped => 0
  | .running _ => 1

/-- R180, R190: the fields of a Get Status reply after its status byte. -/
def statusRecord (s : State) : List Byte :=
  [railStateByte s.rails.state, faultCauseByte s.rails.faultCause, flagByte s.rails.fastFall, frameTimerByte s.frameTimer,
    haltStateByte s.halt, flagByte (busyOutput s), byteOf (deferredHalts s)] ++
  s.slots.toList.flatMap slotRecord ++
  byteOf s.queue.length :: leBytes 2 s.idCounter ++
  bankRecord s.bankA ++ bankRecord s.bankB ++
  byteOf (tempSourceNat s.params.tempSource) :: readingRecord s ++
  loadRecord s.load ++
  byteOf s.raster.jobs.length :: leBytes 4 (runningJobNumber s.raster) ++ leBytes 4 s.raster.mark ++
  leBytes 4 (jobCounterNat s.raster.counter) ++
  byteOf s.notices.items.length :: byteOf s.notices.credit :: leBytes 2 s.notices.lost ++ s.notices.seqCounter ::
  counterRecord s.link.counters ++ leBytes 4 s.link.lineRate ++ [byteOf s.link.table.length]

/-- R180: a Get Status that the dispatcher takes. -/
def reportStatus (r : Request) (s : State) : State :=
  match noFields r.payload with
  | .error st => answerEntry r st [] .nothing s
  | .ok _ => answerEntry r .ok (statusRecord s) .nothing s

/-- GET_STATUS: R180. -/
def execGetStatus (s : State) : Host.Outcome State Fault Refusal := .next (dispatch .getStatus reportStatus s)

/-! ### Get Parameter and Set Parameter -/

/-- R177, R178, R190: the fields of the reply: the identifier and the value now held. -/
def paramRecord (q : ParamId) (ps : Params) : List Byte := paramByte q :: leBytes 4 (paramValue q ps)

/-- R178: a Get Parameter that the dispatcher takes. -/
def reportParameter (r : Request) (s : State) : State :=
  match getParameterFields r.payload with
  | .error st => answerEntry r st [] .nothing s
  | .ok q => answerEntry r .ok (paramRecord q s.params) .nothing s

/-- GET_PARAMETER: R178. -/
def execGetParameter (s : State) : Host.Outcome State Fault Refusal := .next (dispatch .getParameter reportParameter s)

/-- R144: the reply of a Set Parameter that changes LINE_RATE is followed by the change of rate. -/
def parameterEffect (q : ParamId) (v : Nat) : ReplyEffect :=
  match q with
  | .lineRate => .lineRate v
  | _ => .nothing

/-- R177: the blocks that act within the execution of a Set Parameter; `before` is the state before it. -/
def parameterActs (q : ParamId) (before s : State) : State :=
  match q with
  | .tempSource => sourceChanged s
  | .staleLimit => limitChanged (readingValid before) s
  | _ => s

/-- R177: a value stored that differs from the one held. -/
def changeParameter (r : Request) (q : ParamId) (v : Nat) (s : State) : State :=
  let stored := { s with params := paramStore q v s.params }
  parameterActs q s (answerEntry r .ok (paramRecord q stored.params) (parameterEffect q v) stored)

/-- R177: a Set Parameter that the dispatcher takes; a value equal to the one held changes nothing. -/
def setParameter (r : Request) (s : State) : State :=
  match setParameterFields r.payload with
  | .error st => answerEntry r st [] .nothing s
  | .ok (q, v) =>
      if v = paramValue q s.params then answerEntry r .ok (paramRecord q s.params) .nothing s
      else changeParameter r q v s

/-- SET_PARAMETER: R177. -/
def execSetParameter (s : State) : Host.Outcome State Fault Refusal := .next (dispatch .setParameter setParameter s)

/-! ### Restart -/

/-- R182: a Restart that the dispatcher takes; its end comes after its reply (R183). -/
def takeRestart (r : Request) (s : State) : State :=
  match noFields r.payload with
  | .error st => answerEntry r st [] .nothing s
  | .ok _ =>
      let t := answerEntry r .ok [] .restart s
      { t with link := { t.link with restartTaken := true } }

/-- RESTART: R182. -/
def execRestart (s : State) : Host.Outcome State Fault Refusal := .next (dispatch .restart takeRestart s)

end Sys2Proof.Machine
end

