-- ==== Sys2Proof/Machine/RailSequencer.lean ====
section
/-! DEFINITION. The Rail Sequencer's own steps (chapter 6): CLEAR_FAULT, POWER_GOOD_ASSERT, POWER_GOOD_LOSS and the four
timer expiries. -/

namespace Sys2Proof.Machine

/-- R106: a Clear Fault that the dispatcher takes. -/
def clearFault (r : Request) (s : State) : State :=
  match noFields r.payload with
  | .error st => answerEntry r st [] .nothing s
  | .ok _ =>
      if s.rails.state = .fault then
        evaluate (answerEntry r .ok [] .nothing { s with rails := { s.rails with state := .off, faultCause := none } })
      else answerEntry r .ok [] .nothing s

/-- CLEAR_FAULT: R106. -/
def execClearFault (s : State) : Host.Outcome State Fault Refusal := .next (dispatch .clearFault clearFault s)

/-- R97: power-good seen in a rise: SETTLING, the settle timer running for the SETTLE of the entry into RISING. -/
def beginSettling (s : State) : State :=
  { s with rails := { s.rails with risePhase := some .settling, settleTimer := s.rails.settleValue } }

/-- POWER_GOOD_ASSERT: R95, R97, R102, R104. The input rises; asserted already, it does not rise. While the reset input
is asserted power-good is ignored (R184), but the level of the input is what it is. -/
def execPowerGoodAssert (s : State) : Host.Outcome State Fault Refusal :=
  if s.powerGood then .next s
  else
    match s.phase, s.rails.state, s.rails.risePhase with
    | .running, .rising, some .waiting => .next (beginSettling { s with powerGood := true })
    | _, _, _ => .next { s with powerGood := true }

/-- R97: power-good lost in SETTLING: FAULT when the rise timer has expired, else back to WAITING. -/
def loseSettling (s : State) : State :=
  if s.rails.riseTimer = .expired then enterFault .railTimeout s
  else { s with rails := { s.rails with risePhase := some .waiting, settleTimer := none } }

/-- R97, R101: power-good lost, the input already low. -/
def losePower (s : State) : State :=
  match s.rails.state with
  | .off => s
  | .rising => if s.rails.risePhase = some .settling then loseSettling s else s
  | .on => enterFault .powerLost s
  | .holding => enterFault .powerLost s
  | .falling => s
  | .fault => s

/-- POWER_GOOD_LOSS: R97, R101. The input falls; deasserted already, it does not fall. While the reset input is asserted
power-good is ignored (R184), but the level of the input is what it is. -/
def execPowerGoodLoss (s : State) : Host.Outcome State Fault Refusal :=
  if s.powerGood then
    if s.phase = .running then .next (losePower { s with powerGood := false }) else .next { s with powerGood := false }
  else .next s

/-- RISE_TIMER_EXPIRY: R97, R101. In WAITING the rails enter FAULT; in SETTLING the timer is marked expired. -/
def execRiseTimerExpiry (s : State) : Host.Outcome State Fault Refusal :=
  match s.rails.state, s.rails.riseTimer with
  | .rising, .running _ =>
      if s.rails.risePhase = some .settling then .next { s with rails := { s.rails with riseTimer := .expired } }
      else .next (enterFault .railTimeout s)
  | _, _ => .next s

/-- SETTLE_TIMER_EXPIRY: R97, R98. The rails enter ON. -/
def execSettleTimerExpiry (s : State) : Host.Outcome State Fault Refusal :=
  match s.rails.state, s.rails.risePhase with
  | .rising, some .settling => .next (enterOn s)
  | _, _ => .next s

/-- HOLD_TIMER_EXPIRY: R100. The rails enter FALLING. -/
def execHoldTimerExpiry (s : State) : Host.Outcome State Fault Refusal :=
  match s.rails.state with
  | .holding => .next (enterFalling s)
  | _ => .next s

/-- R102: the fall ends: OFF, and on to RISING when demand is present. -/
def fallEnds (s : State) : State :=
  let off := { s with rails := { s.rails with state := .off, fallTimer := none } }
  if demand s then enterRising off else off

/-- FALL_TIMER_EXPIRY: R102. -/
def execFallTimerExpiry (s : State) : Host.Outcome State Fault Refusal :=
  match s.rails.state with
  | .falling => .next (fallEnds s)
  | _ => .next s

end Sys2Proof.Machine
end

