-- ==== Sys2Proof/Machine/RasterUnit.lean ====
section
/-! DEFINITION. The Raster Unit (chapter 8): FILL, COPY, JOB_WRITES_PIXEL and JOB_COMPLETION. -/

namespace Sys2Proof.Machine

/-- R136, R137: the rectangle a job writes. -/
def jobTarget : JobKind → Region
  | .fill rect _ => rect
  | .copy _ dest => dest

/-- R136, R137: the final image of a job's destination, from Pending as the job becomes RUNNING. -/
def jobImage (p : Plane Level) : JobKind → Plane Level
  | .fill rect level => planeOf rect.val.width rect.val.height level
  | .copy source _ => planeCrop source.val p

/-- R134, R138: a job becomes RUNNING with written count 0. -/
def startJob (p : Plane Level) (j : Job) : Job := { j with progress := .running 0 (jobImage p j.kind) }

/-- R138 step 3: the oldest job of a queue becomes RUNNING. -/
def startOldest (p : Plane Level) : List Job → List Job
  | [] => []
  | j :: rest => startJob p j :: rest

/-- R130, R134: the counter advances, or becomes EXHAUSTED. -/
def counterAfter (n : Nat) : JobCounter := if Config.counter32Max ≤ n then .exhausted else .next (n + 1)

/-- R134: an accepted job joins the queue, RUNNING when the queue was empty. -/
def withJob (n : Nat) (kind : JobKind) (s : State) : Raster :=
  let j : Job := { number := n, kind := kind, progress := .queued }
  { s.raster with
    jobs := if s.raster.jobs.isEmpty then [startJob s.pendingPlane j] else s.raster.jobs ++ [j]
    counter := counterAfter n }

/-- R132, R133: checks 4 and 5 of a Fill or a Copy, and its acceptance (R134). -/
def takeJob (r : Request) (kind : JobKind) (s : State) : State :=
  if s.load.isSome then answerEntry r .loadOpen [] .nothing s
  else
    match s.raster.counter with
    | .exhausted => answerEntry r .wrongState [] .nothing s
    | .next n => deferEntry (.job n) { s with raster := withJob n kind s }

/-- R132: a Fill that the dispatcher takes. -/
def takeFill (r : Request) (s : State) : State :=
  match fillFields r.payload with
  | .error st => answerEntry r st [] .nothing s
  | .ok (rect, level) => takeJob r (.fill rect level) s

/-- FILL: R132, R134. -/
def execFill (s : State) : Host.Outcome State Fault Refusal := .next (dispatch .fill takeFill s)

/-- R133: a Copy that the dispatcher takes. -/
def takeCopy (r : Request) (s : State) : State :=
  match copyFields r.payload with
  | .error st => answerEntry r st [] .nothing s
  | .ok (source, dest) => takeJob r (.copy source dest) s

/-- COPY: R133, R134. -/
def execCopy (s : State) : Host.Outcome State Fault Refusal := .next (dispatch .copy takeCopy s)

/-- R136, R137: the RUNNING job writes destination pixel number `k` of its rectangle. -/
def writeJobPixel (target : Rect) (k : Nat) (image p : Plane Level) : Plane Level :=
  match planeAt image (k % target.width) (k / target.width) with
  | none => p
  | some level => planeSet (rowMajorPixel target k).1 (rowMajorPixel target k).2 level p

/-- JOB_WRITES_PIXEL: R136, R137. The RUNNING job writes its next destination pixel; with every pixel written there is
none. -/
def execJobWritesPixel (s : State) : Host.Outcome State Fault Refusal :=
  match s.raster.jobs with
  | [] => .next s
  | j :: rest =>
      match j.progress with
      | .queued => .next s
      | .running k image =>
          if k < rectArea (jobTarget j.kind).val then
            .next { s with
              pendingPlane := writeJobPixel (jobTarget j.kind).val k image s.pendingPlane
              raster := { s.raster with jobs := { j with progress := .running (k + 1) image } :: rest } }
          else .next s

/-- R138 steps 1 to 3: every destination pixel holds its final level, the mark takes the number, the job leaves, and
the oldest remaining job becomes RUNNING. -/
def finishJob (j : Job) (rest : List Job) (image : Plane Level) (s : State) : State :=
  let p := planePaste (jobTarget j.kind).val image s.pendingPlane
  { s with pendingPlane := p, raster := { s.raster with jobs := startOldest p rest, mark := j.number } }

/-- JOB_COMPLETION: R138. The reply follows in step 4 and the evaluation of starts in step 5; the dispatcher takes held
requests in steps of its own (DESIGN CHOICE, safe: notes/assumptions/7.md). -/
def execJobCompletion (s : State) : Host.Outcome State Fault Refusal :=
  match s.raster.jobs with
  | [] => .next s
  | j :: rest =>
      match j.progress with
      | .queued => .next s
      | .running _ image =>
          .next (evaluate (finishWork (.job j.number) .ok (leBytes 4 j.number) (finishJob j rest image s)))

end Sys2Proof.Machine
end

