-- ==== Sys2Proof/Machine/Updates.lean ====
section
/-! DEFINITION. The requests of the Update Queue (chapter 2): SUBMIT_UPDATE, CANCEL_UPDATE and QUERY_UPDATE. -/

namespace Sys2Proof.Machine

/-- R21: the value after an id: from 65,535 it is 1. -/
def nextId (id : Nat) : Nat := if id = 65535 then 1 else id + 1

/-- R21: the counter advances past values in use; one advance for each value in use is enough. -/
def freeId : Nat → List Nat → Nat → Nat
  | 0, _, id => id
  | n + 1, used, id => if id ∈ used then freeId n used (nextId id) else id

/-- R21: the id an accepted update takes. -/
def allocateId (s : State) : Nat := freeId (idsInUse s).length (idsInUse s) s.idCounter

/-- R23: the number of the youngest job, if any. -/
def youngestJob (s : State) : Option Nat := s.raster.jobs.getLast?.map (·.number)

/-- R22: the entry of an accepted update. -/
def newEntry (f : SubmitFields) (rect : Region) (s : State) : Entry where
  id := allocateId s
  rect := rect
  mode := f.mode
  policy := f.policy
  skipUnchanged := f.skipUnchanged
  notifyStart := f.notifyStart
  rasterFence := youngestJob s
  loadFence := s.load.isSome

/-- R15: checks 2 to 6, in order. -/
def submitChecks (f : SubmitFields) (s : State) : Except Status Region :=
  match regionOf f.rect with
  | none => .error .badRect
  | some rect =>
      if activeBank s = none then .error .noWaveform
      else if activeMode s f.mode = none then .error .modeAbsent
      else if Config.queueCapacity ≤ s.queue.length then .error .queueFull
      else if f.policy = .refuse ∧ (overlapsSlot s rect.val = true ∨ overlapsEntry s.queue rect.val = true) then .error .collision
      else .ok rect

/-- R14: an accepted update: the entry, the counter, the reply, and then the evaluation of starts. -/
def acceptUpdate (r : Request) (f : SubmitFields) (rect : Region) (s : State) : State :=
  let id := allocateId s
  evaluate (answerEntry r .ok (leBytes 2 id) .nothing
    { s with queue := s.queue ++ [newEntry f rect s], idCounter := nextId id })

/-- R14, R15: a Submit Update that the dispatcher takes. -/
def submitUpdate (r : Request) (s : State) : State :=
  match submitFields r.payload with
  | .error st => answerEntry r st [] .nothing s
  | .ok f =>
      match submitChecks f s with
      | .error st => answerEntry r st [] .nothing s
      | .ok rect => acceptUpdate r f rect s

/-- SUBMIT_UPDATE: R14. -/
def execSubmitUpdate (s : State) : Host.Outcome State Fault Refusal := .next (dispatch .submitUpdate submitUpdate s)

/-- R34: the cancelled entry leaves the queue with its notice and the reply, and starts are evaluated. -/
def cancelEntry (r : Request) (id : Nat) (s : State) : State :=
  evaluate (answerEntry r .ok [] .nothing (offerNotice (.updateEnded id .cancelled 0 0)
    { s with queue := s.queue.filter fun x => decide (x.id ≠ id) }))

/-- R34, R35: a Cancel Update that the dispatcher takes. -/
def cancelUpdate (r : Request) (s : State) : State :=
  match updateIdField r.payload with
  | .error st => answerEntry r st [] .nothing s
  | .ok id =>
      if s.queue.any fun x => decide (x.id = id) then cancelEntry r id s
      else if (activeUpdates s).any fun u => decide (u.id = id) then answerEntry r .inDrive [] .nothing s
      else answerEntry r .notFound [] .nothing s

/-- CANCEL_UPDATE: R34. -/
def execCancelUpdate (s : State) : Host.Outcome State Fault Refusal := .next (dispatch .cancelUpdate cancelUpdate s)

/-- R36: the entry of an id, with the entries older than it. -/
def findEntry (id : Nat) : List Entry → List Entry → Option (List Entry × Entry)
  | _, [] => none
  | older, x :: rest => if x.id = id then some (older, x) else findEntry id (older ++ [x]) rest

/-- R190: the fields of a Query Update reply: state, position, unmet conditions, policy, mode id, slot, frame index
and F. -/
def queryRecord (s : State) (id : Nat) : List Byte :=
  match findEntry id [] s.queue with
  | some (older, x) =>
      [1, byteOf older.length, unmetByte (unmetConditions s older x), policyByte x.policy, byteOf x.mode, 0, 0, 0]
  | none =>
      match slotNumbers.find? fun i => decide ((slotUpdate s.slots[i]).map (·.id) = some id) with
      | none => [0, 0, 0, 0, 0, 0, 0, 0]
      | some i =>
          match s.slots[i] with
          | .free => [0, 0, 0, 0, 0, 0, 0, 0]
          | .armed _ => [2, 0, 0, 0, 0, byteOf i.val, 0, 0]
          | .driving u => [3, 0, 0, 0, 0, byteOf i.val, byteOf u.index, byteOf u.frames]

/-- R36: a Query Update that the dispatcher takes. -/
def queryUpdate (r : Request) (s : State) : State :=
  match updateIdField r.payload with
  | .error st => answerEntry r st [] .nothing s
  | .ok id => answerEntry r .ok (queryRecord s id) .nothing s

/-- QUERY_UPDATE: R36. -/
def execQueryUpdate (s : State) : Host.Outcome State Fault Refusal := .next (dispatch .queryUpdate queryUpdate s)

end Sys2Proof.Machine
end

