-- ==== Sys2Proof/Machine/Waveform.lean ====
section
/-! DEFINITION. The Waveform Store (chapter 4): BANK_OPEN, BANK_DATA, BANK_VERIFY, VERIFICATION_COMPLETE, BANK_ACTIVATE
and BANK_ERASE. -/

namespace Sys2Proof.Machine

/-- R65: a bank opened for a load. -/
def openedBank (d : Declared) (v : Bank) : Bank :=
  { v with state := .loading, contents := [], declared := some d }

/-- R65: a Bank Open that the dispatcher takes. -/
def openBank (r : Request) (s : State) : State :=
  match bankOpenFields r.payload with
  | .error st => answerEntry r st [] .nothing s
  | .ok (bank, d) =>
      match (bankAt s bank).state with
      | .empty => answerEntry r .ok [] .nothing (setBank bank (openedBank d (bankAt s bank)) s)
      | .loading => answerEntry r .ok [] .nothing (setBank bank (openedBank d (bankAt s bank)) s)
      | .loaded => answerEntry r .ok [] .nothing (setBank bank (openedBank d (bankAt s bank)) s)
      | .verifying => answerEntry r .wrongState [] .nothing s
      | .active => answerEntry r .wrongState [] .nothing s
      | .retiring => answerEntry r .wrongState [] .nothing s

/-- BANK_OPEN: R65. -/
def execBankOpen (s : State) : Host.Outcome State Fault Refusal := .next (dispatch .bankOpen openBank s)

/-- R62: the declared size of a bank, 0 when absent. -/
def declaredSize (v : Bank) : Nat :=
  match v.declared with
  | none => 0
  | some d => d.size

/-- R66, R190: the received count as the replies to Bank Data carry it. -/
def receivedField (v : Bank) : List Byte := leBytes 4 v.contents.length

/-- R66: Bank Data in LOADING: the status and the bank afterwards. -/
def bankWithData (offset : Nat) (bytes : List Byte) (v : Bank) : Status × Bank :=
  if offset ≠ v.contents.length then (.outOfOrder, v)
  else if declaredSize v < offset + bytes.length then (.overrun, v)
  else (.ok, { v with contents := v.contents ++ bytes })

/-- R66: a Bank Data that the dispatcher takes. -/
def storeBankData (r : Request) (s : State) : State :=
  match bankDataFields r.payload with
  | .error st => answerEntry r st [] .nothing s
  | .ok (bank, offset, bytes) =>
      match (bankAt s bank).state with
      | .loading =>
          let result := bankWithData offset bytes (bankAt s bank)
          answerEntry r result.1 (receivedField result.2) .nothing (setBank bank result.2 s)
      | .empty => answerEntry r .wrongState [] .nothing s
      | .verifying => answerEntry r .wrongState [] .nothing s
      | .loaded => answerEntry r .wrongState [] .nothing s
      | .active => answerEntry r .wrongState [] .nothing s
      | .retiring => answerEntry r .wrongState [] .nothing s

/-- BANK_DATA: R66. -/
def execBankData (s : State) : Host.Outcome State Fault Refusal := .next (dispatch .bankData storeBankData s)

/-- R67: a Bank Verify that the dispatcher takes. -/
def beginVerify (r : Request) (s : State) : State :=
  match bankField r.payload with
  | .error st => answerEntry r st [] .nothing s
  | .ok bank =>
      match (bankAt s bank).state with
      | .loading =>
          if (bankAt s bank).contents.length < declaredSize (bankAt s bank) then answerEntry r .size [] .nothing s
          else deferEntry (.verify bank) (setBank bank { bankAt s bank with state := .verifying } s)
      | .empty => answerEntry r .wrongState [] .nothing s
      | .verifying => answerEntry r .wrongState [] .nothing s
      | .loaded => answerEntry r .wrongState [] .nothing s
      | .active => answerEntry r .wrongState [] .nothing s
      | .retiring => answerEntry r .wrongState [] .nothing s

/-- BANK_VERIFY: R67. -/
def execBankVerify (s : State) : Host.Outcome State Fault Refusal := .next (dispatch .bankVerify beginVerify s)

/-- R62, R69: the declared CRC of a bank, if any. -/
def declaredCrc (v : Bank) : Option (BitVec 32) := v.declared.map (·.crc)

/-- R69: the outcome of verification: the status, the reply fields and the bank afterwards. -/
def verifyOutcome (v : Bank) : Status × List Byte × Bank :=
  if declaredCrc v = some (crc32 v.contents) then
    match walkImage v.contents with
    | .ok _ => (.ok, [], { v with state := .loaded })
    | .error (detail, offset) => (.format, detailByte detail :: leBytes 4 offset, { Bank.none with refCount := v.refCount })
  else (.crcMismatch, leBytes 4 (crc32 v.contents).toNat, { Bank.none with refCount := v.refCount })

/-- R69: the completion of the verification of a VERIFYING bank. -/
def finishVerify (bank : BankId) (s : State) : State :=
  let outcome := verifyOutcome (bankAt s bank)
  finishWork (.verify bank) outcome.1 outcome.2.1 (setBank bank outcome.2.2 s)

/-- VERIFICATION_COMPLETE: R69. Only a VERIFYING bank has a verification to end. -/
def execVerificationComplete (bank : BankId) (s : State) : Host.Outcome State Fault Refusal :=
  if (bankAt s bank).state = .verifying then .next (finishVerify bank s) else .next s

/-- R75: what becomes of the other bank. -/
def displacedBank (v : Bank) : Bank :=
  match v.state with
  | .active => if 0 < v.refCount then { v with state := .retiring } else { v with state := .loaded }
  | .empty => v
  | .loading => v
  | .verifying => v
  | .loaded => v
  | .retiring => v

/-- R75: a LOADED or RETIRING bank becomes ACTIVE, keeping its count, and the other bank is displaced. -/
def activateBank (bank : BankId) (s : State) : State :=
  setBank (otherBank bank) (displacedBank (bankAt s (otherBank bank)))
    (setBank bank { bankAt s bank with state := .active } s)

/-- R75: a Bank Activate that the dispatcher takes. -/
def takeActivate (r : Request) (s : State) : State :=
  match bankField r.payload with
  | .error st => answerEntry r st [] .nothing s
  | .ok bank =>
      match (bankAt s bank).state with
      | .empty => answerEntry r .wrongState [] .nothing s
      | .loading => answerEntry r .wrongState [] .nothing s
      | .verifying => answerEntry r .wrongState [] .nothing s
      | .active => answerEntry r .ok [] .nothing s
      | .loaded => answerEntry r .ok [] .nothing (activateBank bank s)
      | .retiring => answerEntry r .ok [] .nothing (activateBank bank s)

/-- BANK_ACTIVATE: R75. -/
def execBankActivate (s : State) : Host.Outcome State Fault Refusal := .next (dispatch .bankActivate takeActivate s)

/-- R78: a bank that becomes EMPTY. -/
def erasedBank (v : Bank) : Bank := { Bank.none with refCount := v.refCount }

/-- R78: a Bank Erase that the dispatcher takes. -/
def eraseBank (r : Request) (s : State) : State :=
  match bankField r.payload with
  | .error st => answerEntry r st [] .nothing s
  | .ok bank =>
      match (bankAt s bank).state with
      | .empty => answerEntry r .ok [] .nothing s
      | .loading => answerEntry r .ok [] .nothing (setBank bank (erasedBank (bankAt s bank)) s)
      | .loaded => answerEntry r .ok [] .nothing (setBank bank (erasedBank (bankAt s bank)) s)
      | .verifying => answerEntry r .wrongState [] .nothing s
      | .active => answerEntry r .wrongState [] .nothing s
      | .retiring => answerEntry r .wrongState [] .nothing s

/-- BANK_ERASE: R78. -/
def execBankErase (s : State) : Host.Outcome State Fault Refusal := .next (dispatch .bankErase eraseBank s)

end Sys2Proof.Machine
end

