-- ==== Sys2Proof/Machine/Dispatch.lean ====
section
/-! DEFINITION. One arm per command: its effect on everything but the queue of commands. -/

namespace Sys2Proof.Machine

def exec (i : Instr) (s : State) : Host.Outcome State Fault Refusal :=
  match i with
  | .frame => Sys2Proof.Machine.execFrame s
  | .gapTimeout => Sys2Proof.Machine.execGapTimeout s
  | .hello => Sys2Proof.Machine.execHello s
  | .unknownCode => Sys2Proof.Machine.execUnknownCode s
  | .getStatus => Sys2Proof.Machine.execGetStatus s
  | .getParameter => Sys2Proof.Machine.execGetParameter s
  | .setParameter => Sys2Proof.Machine.execSetParameter s
  | .restart => Sys2Proof.Machine.execRestart s
  | .grantNotices => Sys2Proof.Machine.execGrantNotices s
  | .submitUpdate => Sys2Proof.Machine.execSubmitUpdate s
  | .cancelUpdate => Sys2Proof.Machine.execCancelUpdate s
  | .queryUpdate => Sys2Proof.Machine.execQueryUpdate s
  | .halt => Sys2Proof.Machine.execHalt s
  | .resume => Sys2Proof.Machine.execResume s
  | .bankOpen => Sys2Proof.Machine.execBankOpen s
  | .bankData => Sys2Proof.Machine.execBankData s
  | .bankVerify => Sys2Proof.Machine.execBankVerify s
  | .bankActivate => Sys2Proof.Machine.execBankActivate s
  | .bankErase => Sys2Proof.Machine.execBankErase s
  | .temperatureReport => Sys2Proof.Machine.execTemperatureReport s
  | .clearFault => Sys2Proof.Machine.execClearFault s
  | .loadOpen => Sys2Proof.Machine.execLoadOpen s
  | .loadData => Sys2Proof.Machine.execLoadData s
  | .loadClose => Sys2Proof.Machine.execLoadClose s
  | .readPixels => Sys2Proof.Machine.execReadPixels s
  | .fill => Sys2Proof.Machine.execFill s
  | .copy => Sys2Proof.Machine.execCopy s
  | .jobCompletion => Sys2Proof.Machine.execJobCompletion s
  | .verificationComplete bank => Sys2Proof.Machine.execVerificationComplete bank s
  | .frameBoundary => Sys2Proof.Machine.execFrameBoundary s
  | .powerGoodAssert => Sys2Proof.Machine.execPowerGoodAssert s
  | .powerGoodLoss => Sys2Proof.Machine.execPowerGoodLoss s
  | .riseTimerExpiry => Sys2Proof.Machine.execRiseTimerExpiry s
  | .settleTimerExpiry => Sys2Proof.Machine.execSettleTimerExpiry s
  | .holdTimerExpiry => Sys2Proof.Machine.execHoldTimerExpiry s
  | .fallTimerExpiry => Sys2Proof.Machine.execFallTimerExpiry s
  | .conversionStart => Sys2Proof.Machine.execConversionStart s
  | .conversionComplete result => Sys2Proof.Machine.execConversionComplete result s
  | .ageRise => Sys2Proof.Machine.execAgeRise s
  | .readingBecomesStale => Sys2Proof.Machine.execReadingBecomesStale s
  | .replyBegin => Sys2Proof.Machine.execReplyBegin s
  | .replySent => Sys2Proof.Machine.execReplySent s
  | .noticeBegin => Sys2Proof.Machine.execNoticeBegin s
  | .noticeSent => Sys2Proof.Machine.execNoticeSent s
  | .pinReset => Sys2Proof.Machine.execPinReset s
  | .startUp => Sys2Proof.Machine.execStartUp s
  | .startUpEnd => Sys2Proof.Machine.execStartUpEnd s
  | .receivedByte value => Sys2Proof.Machine.execReceivedByte value s
  | .jobWritesPixel => Sys2Proof.Machine.execJobWritesPixel s

end Sys2Proof.Machine
end

