-- ==== Sys2Proof/Safety.lean ====
section
/-! DEFINITION. The laws of the device: what the spec says holds of the part at every moment, each a predicate of the
state. A law speaks of every state, reached or not; that the steps keep it is stated in Certificates/Slice0. -/

namespace Sys2Proof.Machine

/-! ### The planes -/

/-- R130, R136, R137: what a job holds: for a Copy two rectangles of one size, and, RUNNING, the final image of its
destination in canonical form and a written count within its area. -/
def jobSound (j : Job) : Prop :=
  (match j.kind with
    | .fill _ _ => True
    | .copy source dest => source.val.width = dest.val.width ∧ source.val.height = dest.val.height) ∧
  (match j.progress with
    | .queued => True
    | .running written image =>
        written ≤ rectArea (jobTarget j.kind).val ∧
          planeWf (jobTarget j.kind).val.width (jobTarget j.kind).val.height image = true)

/-- Chapter 1: the three planes are 800 by 600 in canonical form, and so is every image a job holds. -/
def PlanesLaw (s : State) : Prop :=
  planeWf 800 600 s.pendingPlane = true ∧ planeWf 800 600 s.target = true ∧ planeWf 800 600 s.shown = true ∧
    ∀ j ∈ s.raster.jobs, jobSound j

/-- R40: no two active slots have overlapping rectangles. -/
def SlotsApart (s : State) : Prop :=
  ∀ i j : Fin 8, ∀ u v : Update, i ≠ j → slotUpdate s.slots[i] = some u → slotUpdate s.slots[j] = some v →
    rectsOverlap u.rect.val v.rect.val = false

/-- Whether a pixel lies in the rectangle of an active slot. -/
def inActiveSlot (s : State) (x y : Nat) : Prop :=
  ∃ i : Fin 8, ∃ u : Update, slotUpdate s.slots[i] = some u ∧ rectContains u.rect.val x y = true

/-- R9: outside every active slot Target equals Shown. -/
def AgreementLaw (s : State) : Prop :=
  ∀ x y : Nat, ¬ inActiveSlot s x y → planeAt s.target x y = planeAt s.shown x y

/-! ### The Update Queue and the slots -/

/-- R21: an update id. -/
def isUpdateId (n : Nat) : Prop := 1 ≤ n ∧ n ≤ 65535

/-- R21, R22, R24: at most 16 entries, no id held twice, every id and the counter in range, and a load fence only while
a load session is OPEN. -/
def QueueLaw (s : State) : Prop :=
  s.queue.length ≤ Config.queueCapacity ∧ (idsInUse s).Nodup ∧ (∀ n ∈ idsInUse s, isUpdateId n) ∧ isUpdateId s.idCounter ∧
    ∀ x ∈ s.queue, x.loadFence = true → s.load.isSome = true

/-- R5: no pixel lies in both rectangles. -/
def regionsApart (r q : Region) : Prop :=
  ∀ x y : Nat, ¬ (rectContains r.val x y = true ∧ rectContains q.val x y = true)

/-- R25: the start conditions of an entry behind the entries `older`, numbered from 0 for (a) to 7 for (h) as R190 numbers
their bits. -/
def startCondition (s : State) (older : List Entry) (x : Entry) : Fin 8 → Prop
  | 0 => s.halt = .running
  | 1 => s.rails.state ≠ .fault
  | 2 => ∃ g, s.temp.reading = some g ∧ g.age ≤ s.params.staleLimit
  | 3 => ∀ n, x.rasterFence = some n → n ≤ s.raster.mark
  | 4 => x.loadFence = false
  | 5 => ∀ (i : Fin 8) (u : Update), slotUpdate s.slots[i] = some u → regionsApart u.rect x.rect
  | 6 => ∀ y ∈ older, regionsApart y.rect x.rect
  | 7 => ∃ i : Fin 8, s.slots[i] = .free

/-- R31: some pixel of a rectangle is UNKNOWN in Shown. -/
def shownUnknown (s : State) (r : Region) : Prop :=
  ∃ x y : Nat, rectContains r.val x y = true ∧ planeAt s.shown x y = some .unknown

/-! ### The banks -/

/-- The number of active slots that use a bank (R63). -/
def slotsUsing (s : State) (bank : BankId) : Nat := ((activeUpdates s).filter fun u => decide (u.bank = bank)).length

/-- R63, R75: the law of the Waveform Store: at most one bank ACTIVE, each count the number of slots that use its bank,
every such bank ACTIVE or RETIRING, and a RETIRING bank in use beside an ACTIVE one. -/
def BankLaw (s : State) : Prop :=
  ¬ (s.bankA.state = .active ∧ s.bankB.state = .active) ∧
    (∀ bank, (bankAt s bank).refCount = slotsUsing s bank) ∧
    (∀ u ∈ activeUpdates s, (bankAt s u.bank).state = .active ∨ (bankAt s u.bank).state = .retiring) ∧
    ∀ bank, (bankAt s bank).state = .retiring →
      1 ≤ (bankAt s bank).refCount ∧ (bankAt s (otherBank bank)).state = .active

/-- R62, R69: what a bank holds in each of its states. -/
def bankSound (v : Bank) : Prop :=
  match v.state with
  | .empty => v.contents = [] ∧ v.declared = none
  | .loading => ∃ d, v.declared = some d ∧ 64 ≤ d.size ∧ d.size ≤ 65536 ∧ v.contents.length ≤ d.size
  | .verifying => ∃ d, v.declared = some d ∧ 64 ≤ d.size ∧ d.size ≤ 65536 ∧ v.contents.length = d.size
  | .loaded => verified v
  | .active => verified v
  | .retiring => verified v
where
  /-- A verified image: of the declared size and CRC, and structurally sound. -/
  verified (v : Bank) : Prop :=
    ∃ d img, v.declared = some d ∧ 64 ≤ d.size ∧ d.size ≤ 65536 ∧ v.contents.length = d.size ∧
      d.crc = crc32 v.contents ∧ walkImage v.contents = .ok img

/-- R62: both banks hold what their states say. -/
def BankContentsLaw (s : State) : Prop := bankSound s.bankA ∧ bankSound s.bankB

/-- R79: every active slot's bank still holds the mode record the slot armed with, with the slot's F for its band. -/
def SlotWaveformLaw (s : State) : Prop :=
  ∀ u ∈ activeUpdates s, ∃ m d, slotMode s u = some m ∧ m.bands[u.band]? = some d ∧ d.frames = u.frames

/-! ### The rails and the frames -/

/-- R39, R40: a slot's frame index and frame count, by its state. -/
def slotFramesSound : Slot → Prop
  | .free => True
  | .armed u => u.index = 0 ∧ 1 ≤ u.frames ∧ u.frames ≤ 255
  | .driving u => 1 ≤ u.index ∧ u.index ≤ u.frames ∧ u.frames ≤ 255

/-- R39: whether a slot is DRIVING. -/
def isDriving : Slot → Bool
  | .free => false
  | .armed _ => false
  | .driving _ => true

/-- R93: each item of the Rail Sequencer is present in its own state and absent elsewhere. -/
def railItemsSound (r : Rails) : Prop :=
  (r.risePhase.isSome = true ↔ r.state = .rising) ∧ (r.riseTimer ≠ .absent ↔ r.state = .rising) ∧
    (r.settleValue.isSome = true ↔ r.state = .rising) ∧ (r.settleTimer.isSome = true ↔ r.risePhase = some .settling) ∧
    (r.holdTimer.isSome = true ↔ r.state = .holding) ∧ (r.fallTimer.isSome = true ↔ r.state = .falling) ∧
    (r.faultCause.isSome = true ↔ r.state = .fault) ∧ (r.fastFall = true → r.state = .rising ∨ r.state = .on)

/-- R40, R54 to R56, R93, R94, R98, R107: rails, frames, demand and the halt state go together. -/
def RailsLaw (s : State) : Prop :=
  railItemsSound s.rails ∧
    (demand s = true → s.rails.state = .rising ∨ s.rails.state = .on ∨ s.rails.state = .falling) ∧
    (s.rails.state = .on → demand s = true) ∧
    (s.frameTimer ≠ .stopped ↔ s.rails.state = .on) ∧
    (∀ i : Fin 8, slotFramesSound s.slots[i] ∧ (isDriving s.slots[i] = true → s.rails.state = .on)) ∧
    (s.halt = .halting → s.rails.state = .on) ∧ (s.halt = .halted → demand s = false)

/-! ### The Pixel Loader and the Raster Unit -/

/-- R130: whether a job is RUNNING. -/
def isRunning (j : Job) : Bool :=
  match j.progress with
  | .queued => false
  | .running _ _ => true

/-- R130: the oldest job is RUNNING and every other job QUEUED. -/
def oldestRuns : List Job → Prop
  | [] => True
  | j :: rest => isRunning j = true ∧ ∀ q ∈ rest, isRunning q = false

/-- R130: a job number lies below the number the counter gives next. -/
def belowCounter (n : Nat) : JobCounter → Prop
  | .next m => n < m
  | .exhausted => n ≤ Config.counter32Max

/-- R116, R130: an OPEN session excludes jobs; at most 4 jobs; their numbers ascend from above the mark to below the
counter; and only the oldest is RUNNING. -/
def RasterLaw (s : State) : Prop :=
  (s.load.isSome = true → s.raster.jobs = []) ∧ s.raster.jobs.length ≤ Config.jobCapacity ∧
    (s.raster.jobs.map (·.number)).Pairwise (· < ·) ∧ (∀ j ∈ s.raster.jobs, s.raster.mark < j.number) ∧
    (∀ j ∈ s.raster.jobs, belowCounter j.number s.raster.counter) ∧ belowCounter s.raster.mark s.raster.counter ∧
    (∀ n, s.raster.counter = .next n → n ≤ Config.counter32Max) ∧ oldestRuns s.raster.jobs

/-- R113: the counts of an OPEN session lie within their ranges. -/
def LoadLaw (s : State) : Prop :=
  ∀ l, s.load = some l → l.written ≤ rectArea l.window.val ∧ l.discarded ≤ Config.counter32Max

/-! ### The Temperature Monitor and the parameters -/

/-- R82: the reading and its age lie in their ranges, and with source HOST no conversion runs or is due. -/
def TemperatureLaw (s : State) : Prop :=
  (∀ r, s.temp.reading = some r → -40 ≤ r.value ∧ r.value ≤ 85 ∧ r.age ≤ Config.counter16Max) ∧
    (s.params.tempSource = .fromHost → s.temp.converting = false ∧ s.temp.nextStart = none)

/-- R144: a rate that follows a reply is one of the five. -/
def effectSound (q : QueuedReply) : Prop := ∀ baud, q.effect = .lineRate baud → paramInRange .lineRate baud = true

/-- R144, R176: every parameter lies in its range, and so do the line rate in force and every rate due to follow a
reply. -/
def ParamsLaw (s : State) : Prop :=
  (∀ q, paramInRange q (paramValue q s.params) = true) ∧ paramInRange .lineRate s.link.lineRate = true ∧
    (∀ q ∈ s.link.replies, effectSound q) ∧
    ∀ q cacheable, s.link.transmitter = .sendingReply q cacheable → effectSound q

/-! ### The Notice Queue and the Control Line Interface -/

/-- R166, R169: the Notice Queue's ranges; drops are unreported only while it is full. -/
def NoticeLaw (s : State) : Prop :=
  s.notices.items.length ≤ Config.noticeCapacity ∧ s.notices.credit ≤ 255 ∧ s.notices.lost ≤ Config.counter16Max ∧
    (0 < s.notices.lost → s.notices.items.length = Config.noticeCapacity)

/-- R155: the SEQ values that take part in matching. -/
def tableSeqs (table : List Request) : List Byte := (table.filter fun r => !r.orphaned).map (·.seq)

/-- R154: whether an entry is EXECUTING. -/
def isExecuting (r : Request) : Bool := decide (r.state = .executing)

/-- R161: whether a reply is the reply of an entry. -/
def isEntryReply (q : QueuedReply) : Bool := decide (q.origin = .entry)

/-- R161, R162: the SEQ values of the entry replies that wait or are being sent. -/
def replySeqs (l : Link) : List Byte :=
  (match l.transmitter with
    | .idle => []
    | .sendingReply q _ => if isEntryReply q then [q.reply.seq] else []
    | .sendingNotice _ _ => []) ++
  (l.replies.filter isEntryReply).map (·.reply.seq)

/-- R154 to R156, R161: the capacities of the Request Table, the Reply Cache and the reply queue; a SEQ never twice
among the entries that match and the cached replies; only DEFERRED entries orphaned; each EXECUTING entry has its one
reply waiting or on the line. -/
def LinkLaw (s : State) : Prop :=
  s.link.table.length ≤ Config.tableCapacity ∧ s.link.cache.length ≤ Config.cacheCapacity ∧
    s.link.replies.length ≤ Config.answerLimit + (s.link.replies.filter isEntryReply).length ∧
    (tableSeqs s.link.table ++ s.link.cache.map (·.seq)).Nodup ∧
    (∀ r ∈ s.link.table, r.orphaned = true → ∃ work, r.state = .deferred work) ∧
    (replySeqs s.link).Perm ((s.link.table.filter isExecuting).map (·.seq))

/-- R150: while the link session is CLOSED both the Request Table and the Reply Cache are empty, and no reply waits or is
on the line but those that are sent and forgotten. -/
def ClosedLaw (s : State) : Prop :=
  s.link.sessionOpen = false → s.link.table = [] ∧ s.link.cache = [] ∧ (∀ q ∈ s.link.replies, q.origin = .forgotten) ∧
    ∀ q cacheable, s.link.transmitter = .sendingReply q cacheable → q.origin = .forgotten

/-- R149: no link counter passes 65,535. -/
def CountersLaw (s : State) : Prop :=
  s.link.counters.crc ≤ Config.counter16Max ∧ s.link.counters.gap ≤ Config.counter16Max ∧
    s.link.counters.length ≤ Config.counter16Max ∧ s.link.counters.cls ≤ Config.counter16Max ∧
    s.link.counters.nobuf ≤ Config.counter16Max

/-- R146: what the receiver holds fits its state: LEN in 3 to 1,027, fewer than LEN bytes in BODY, LEN bytes after. -/
def receiverSound : Receiver → Prop
  | .hunt => True
  | .length _ => True
  | .body len held => 3 ≤ len ∧ len ≤ 1027 ∧ held.length < len
  | .check len held _ => 3 ≤ len ∧ len ≤ 1027 ∧ held.length = len
  | .complete len held _ _ => 3 ≤ len ∧ len ≤ 1027 ∧ held.length = len

/-! ### The end of slots -/

/-- The id, result, frames driven and changed count of an Update Ended notice (R167). -/
def endedFields : Notice → Option (Nat × EndResult × Nat × Nat)
  | .updateEnded id result frames changed => some (id, result, frames, changed)
  | .updateStarted _ _ _ _ => none
  | .railFault _ _ => none
  | .tempStale _ _ => none
  | .bankRetired _ => none
  | .noticeLoss _ => none

/-- R47, R51: whether a slot completes at the next boundary in RUNNING: DRIVING with its frame index at F. -/
def atLastFrame : Slot → Bool
  | .free => false
  | .armed _ => false
  | .driving u => decide (u.index = u.frames)

/-- R39: whether a slot is ARMED or DRIVING. -/
def isActive (x : Slot) : Bool := !slotIsFree x

/-- R77: whether no slot uses a bank once the slots that `ends` picks have ended as far as slot `i`. -/
def bankFreedBy (ends : Slot → Bool) (s : State) (bank : BankId) (i : Fin 8) : Bool :=
  slotNumbers.all fun j => match slotUpdate s.slots[j] with
    | none => true
    | some v => decide (v.bank ≠ bank) || (ends s.slots[j] && decide (j ≤ i))

/-- R51 to R53, R55, R77: the notices that the end of the slots that `ends` picks produces, in slot-number order: each
slot's Update Ended, and Bank Retired after the one that leaves a RETIRING bank without a slot. -/
def slotEndNotices (ends : Slot → Bool) (result : EndResult) (s : State) : List Notice :=
  slotNumbers.flatMap fun i => match slotUpdate s.slots[i] with
    | none => []
    | some u =>
        if ends s.slots[i] then
          .updateEnded u.id result (framesDriven s.slots[i]) u.changed ::
            (if (bankAt s u.bank).state = .retiring ∧ bankFreedBy ends s u.bank i = true then [.bankRetired u.bank] else [])
        else []

/-- R52, R53, R55, R63, R77: what the abort of every active slot of `s` leaves in `t`, the notices joining the queue
`before`: every slot FREE; Target the Shown values over an ARMED slot's rectangle, both planes UNKNOWN over a DRIVING
one's, and no other pixel changed; the Update Ended notices with the result, and Bank Retired in its place; each count 0,
and a RETIRING bank LOADED. -/
def SlotsAborted (result : EndResult) (before : NoticeQueue) (s t : State) : Prop :=
  (∀ i : Fin 8, t.slots[i] = .free) ∧
  (PlanesLaw s → SlotsApart s → ∀ x y : Nat, x < 800 → y < 600 →
    (∀ (i : Fin 8) (u : Update), s.slots[i] = .armed u → rectContains u.rect.val x y = true →
      planeAt t.target x y = planeAt s.shown x y ∧ planeAt t.shown x y = planeAt s.shown x y) ∧
    (∀ (i : Fin 8) (u : Update), s.slots[i] = .driving u → rectContains u.rect.val x y = true →
      planeAt t.target x y = some .unknown ∧ planeAt t.shown x y = some .unknown) ∧
    (¬ inActiveSlot s x y → planeAt t.target x y = planeAt s.target x y ∧ planeAt t.shown x y = planeAt s.shown x y)) ∧
  (BankLaw s → t.notices = (slotEndNotices isActive result s).foldl offerTo before ∧
    ∀ bank, bankAt t bank = { bankAt s bank with
      refCount := 0, state := if (bankAt s bank).state = .retiring then .loaded else (bankAt s bank).state })

/-! ### Reset and start-up -/

/-- R184, R185: while the reset input is asserted the part stays in its pin-reset values, but for the queue of commands
and the level of the power-good input; in start-up the Temperature Monitor runs, and a reading may age and queue a
notice. -/
def ResetLaw (s : State) : Prop :=
  (s.phase = .resetHeld → s = { State.reset with
      pending := s.pending, powerGood := s.powerGood, startUps := s.startUps }) ∧
    (s.phase = .startUp → s = { State.reset with
      phase := .startUp, pending := s.pending, powerGood := s.powerGood, startUps := s.startUps, temp := s.temp,
      notices := s.notices })

/-! ### The dispatcher -/

/-- R158: the dispatcher takes entry `r`, whose CODE names the request given. -/
def takes (s : State) (code : RequestCode) (r : Request) : Prop :=
  nextRequest s = some r ∧ requestCodeOf r.code = some code

/-- The commands that are takings of the dispatcher (R158). -/
def dispatcherCommands : List Instr :=
  [.unknownCode, .getStatus, .getParameter, .setParameter, .restart, .grantNotices, .submitUpdate, .cancelUpdate,
    .queryUpdate, .halt, .resume, .bankOpen, .bankData, .bankVerify, .bankActivate, .bankErase, .temperatureReport,
    .clearFault, .loadOpen, .loadData, .loadClose, .readPixels, .fill, .copy]

/-- R147: the receiver has completed a frame whose CRC matches. -/
def frameReceived (s : State) (cls seq code : Byte) (payload : List Byte) : Prop :=
  s.phase = .running ∧ ∃ len low high,
    s.link.receiver = .complete len (cls :: seq :: code :: payload) low high ∧
      crcMatches len (cls :: seq :: code :: payload) low high = true

/-! ### Safe outcomes -/

/-- An outcome that no well-formed command may have: this model stops on none of them. -/
def stops {σ φ ρ : Type} : Host.Outcome σ φ ρ → Bool
  | .next _ => false
  | .fault _ => true
  | .refused _ => true

end Sys2Proof.Machine
end

