-- ==== Sys2Proof/Certificates/Slice0/Obligations.lean ====
section
/-! DEFINITION. The statements for the provers. A statement about an operation the meanings share (answerEntry, evaluate)
names that operation, and the operation has a statement of its own. -/

open Sys2Proof Sys2Proof.Machine

/-! ### The step -/

/-- A step is the command at the front of the queue, run with the queue's rest. The model's choice
(notes/assumptions/8.md): with no command waiting the part idles. -/
def Obligations.StepRunsFrontCommand : Prop :=
  (∀ (c : Instr) (s : State), step { s with pending := c :: s.pending } = exec c s) ∧
  (∀ s : State, s.pending = [] → step s = .next s)

/-- No command touches the queue of commands. The model's choice (notes/assumptions/11.md): a well-formed command
never stops the part, and a sensor result that is no number does. -/
def Obligations.CommandsCompleteAndKeepTheQueue : Prop :=
  (∀ (c : Instr) (s t : State), exec c s = .next t → t.pending = s.pending) ∧
  ((∀ (c : Instr) (s : State), instrWellFormed c = true → ∃ t, exec c s = .next t) ∧
    ∀ (n : Int) (s : State), exec (.conversionComplete { num := n, den := 0 }) s = .fault .sensorResultNotANumber)

/-! ### Resets -/

/-- R12: the planes after a pin reset. -/
def Obligations.PinResetSetsThePlanes : Prop :=
  ∀ s : State, ∃ t, exec .pinReset s = .next t ∧ ∀ x y : Nat, x < 800 → y < 600 →
    planeAt t.pendingPlane x y = some 15 ∧ planeAt t.target x y = some .unknown ∧ planeAt t.shown x y = some .unknown

/-- R38, R60, R80, R92, R111, R128, R141, R164, R174, R179, R184: every block after a pin reset, and its outputs.
R185, R92: start-up begins at the release with a conversion, and ends with the receiver in HUNT, due to discard the byte of
a character then in progress; whether there is one is by the model's choice a free value of the model's own count of
start-ups (notes/assumptions/23.md). That count, the queue of commands and the level of power-good stay by the model's
choice (notes/assumptions/5.md, notes/assumptions/23.md). -/
def Obligations.PinResetAndStartUp : Prop :=
  (∀ s : State, ∃ t, exec .pinReset s = .next t ∧
    t.phase = .resetHeld ∧ t.pending = s.pending ∧ t.powerGood = s.powerGood ∧ t.startUps = s.startUps ∧
    t.queue = [] ∧ t.idCounter = 1 ∧ (∀ i : Fin 8, t.slots[i] = .free) ∧ t.halt = .running ∧
    (∀ bank, (bankAt t bank).state = .empty ∧ (bankAt t bank).contents = [] ∧ (bankAt t bank).declared = none ∧
      (bankAt t bank).refCount = 0) ∧
    t.temp.reading = none ∧ t.temp.converting = false ∧
    t.rails.state = .off ∧ t.rails.risePhase = none ∧ t.rails.riseTimer = .absent ∧ t.rails.settleTimer = none ∧
    t.rails.holdTimer = none ∧ t.rails.fallTimer = none ∧ t.rails.fastFall = false ∧ t.rails.faultCause = none ∧
    t.frameTimer = .stopped ∧ t.load = none ∧
    t.raster.jobs = [] ∧ t.raster.mark = 0 ∧ t.raster.counter = .next 1 ∧
    t.notices.items = [] ∧ t.notices.credit = 0 ∧ t.notices.lost = 0 ∧ t.notices.seqCounter = 0 ∧
    t.link.lineRate = 115200 ∧ t.link.receiver = .hunt ∧ t.link.sessionOpen = false ∧ t.link.resetCause = .pin ∧
    t.link.table = [] ∧ t.link.replies = [] ∧ t.link.cache = [] ∧ t.link.counters = ⟨0, 0, 0, 0, 0⟩ ∧
    t.link.transmitter = .idle ∧ t.link.restartTaken = false ∧ t.link.straddling = false ∧
    t.params = ⟨85, 20, 5, 1000, 30, .fromSensor, 30, 120, 115200⟩ ∧
    railEnable t = false ∧ busyOutput t = false ∧ frameOnLine t = none ∧ ∀ x y, panelDrive t x y = none) ∧
  ((∀ s : State, s.phase = .resetHeld → exec .startUp s = .next { s with
      phase := .startUp, temp := { s.temp with converting := true, nextStart := some s.params.samplePeriod } }) ∧
    ∀ s : State, s.phase = .startUp → exec .startUpEnd s = .next { s with
      phase := .running, startUps := s.startUps + 1,
      link := { s.link with receiver := .hunt, straddling := Config.characterInProgress s.startUps } })

/-- R38, R61, R81, R92, R112, R129, R142, R165, R175, R179, R183: every block once a Restart has taken effect. By the
model's choice, not by a rule, its own count of start-ups stays and no straddling character is due any more
(notes/assumptions/23.md), and the queue of commands, the phase and the level of power-good stay
(notes/assumptions/19.md). -/
def Obligations.RestartClearsTheBlocks : Prop :=
  ∀ (s : State) (q : QueuedReply) (cacheable : Bool),
    s.link.transmitter = .sendingReply q cacheable → q.effect = .restart →
    ∃ t, exec .replySent s = .next t ∧ t.pending = s.pending ∧ t.phase = s.phase ∧ t.powerGood = s.powerGood ∧
      t.startUps = s.startUps ∧
      t.params = ⟨85, 20, 5, 1000, 30, .fromSensor, 30, 120, 115200⟩ ∧ t.pendingPlane = s.pendingPlane ∧
      t.queue = [] ∧ t.idCounter = 1 ∧ (∀ i : Fin 8, t.slots[i] = .free) ∧ t.halt = .running ∧
      (∀ bank, (bankAt t bank).refCount = 0 ∧
        match (bankAt s bank).state with
        | .empty => (bankAt t bank).state = .empty ∧ (bankAt t bank).contents = [] ∧ (bankAt t bank).declared = none
        | .loading => (bankAt t bank).state = .empty ∧ (bankAt t bank).contents = [] ∧ (bankAt t bank).declared = none
        | .verifying => (bankAt t bank).state = .empty ∧ (bankAt t bank).contents = [] ∧ (bankAt t bank).declared = none
        | .loaded => (bankAt t bank).state = .loaded ∧ (bankAt t bank).contents = (bankAt s bank).contents ∧
            (bankAt t bank).declared = (bankAt s bank).declared
        | .active => (bankAt t bank).state = .active ∧ (bankAt t bank).contents = (bankAt s bank).contents ∧
            (bankAt t bank).declared = (bankAt s bank).declared
        | .retiring => (bankAt t bank).state = .loaded ∧ (bankAt t bank).contents = (bankAt s bank).contents ∧
            (bankAt t bank).declared = (bankAt s bank).declared) ∧
      t.temp = { reading := none, converting := true, nextStart := some 30 } ∧
      (match s.rails.state with
        | .off => t.rails = .reset
        | .rising => t.rails = { Rails.reset with state := .falling, fallTimer := some 30 }
        | .on => t.rails = { Rails.reset with state := .falling, fallTimer := some 30 }
        | .holding => t.rails = { Rails.reset with state := .falling, fallTimer := some 30 }
        | .falling => t.rails = { Rails.reset with state := .falling, fallTimer := s.rails.fallTimer }
        | .fault => t.rails = .reset) ∧
      t.frameTimer = .stopped ∧ t.load = none ∧ t.raster = { jobs := [], counter := .next 1, mark := 0 } ∧
      t.notices = { items := [], credit := 0, lost := 0, seqCounter := 0 } ∧
      t.link.lineRate = 115200 ∧ t.link.receiver = .hunt ∧ t.link.sessionOpen = false ∧ t.link.resetCause = .restart ∧
      t.link.table = [] ∧ t.link.replies = [] ∧ t.link.cache = [] ∧ t.link.counters = ⟨0, 0, 0, 0, 0⟩ ∧
      t.link.transmitter = .idle ∧ t.link.restartTaken = false ∧ t.link.straddling = false ∧ busyOutput t = false

/-- R13: the planes once a Restart has taken effect. -/
def Obligations.RestartWritesThePlanes : Prop :=
  ∀ (s : State) (q : QueuedReply) (cacheable : Bool), PlanesLaw s → SlotsApart s →
    s.link.transmitter = .sendingReply q cacheable → q.effect = .restart →
    ∃ t, exec .replySent s = .next t ∧ t.pendingPlane = s.pendingPlane ∧ ∀ x y : Nat, x < 800 → y < 600 →
      (∀ (i : Fin 8) (u : Update), s.slots[i] = .driving u → rectContains u.rect.val x y = true →
        planeAt t.target x y = some .unknown ∧ planeAt t.shown x y = some .unknown) ∧
      (∀ (i : Fin 8) (u : Update), s.slots[i] = .armed u → rectContains u.rect.val x y = true →
        planeAt t.target x y = planeAt s.shown x y ∧ planeAt t.shown x y = planeAt s.shown x y) ∧
      (¬ inActiveSlot s x y →
        planeAt t.target x y = planeAt s.target x y ∧ planeAt t.shown x y = planeAt s.shown x y)

/-! ### The receiver and the frame -/

/-- R146, R184, R185: what each received byte does, by the receiver's state; in reset and start-up it is discarded, and so is
the byte whose character straddled the end of start-up, after which the receiver hunts from the next. By the model's choice
(notes/assumptions/4.md) the check of a completed frame is the FRAME step, and a byte that finds one due comes after it. -/
def Obligations.ReceiverTakesEachByte : Prop :=
  ∀ (s : State) (v : Byte), ∃ t, exec (.receivedByte v) s = .next t ∧
    (s.phase ≠ .running → t = s) ∧
    (s.phase = .running → s.link.straddling = true → t = { s with link := { s.link with straddling := false } }) ∧
    (s.phase = .running → s.link.straddling = false →
      match s.link.receiver with
      | .hunt => t = if v = 0x5A then { s with link := { s.link with receiver := .length none } } else s
      | .length none => t = { s with link := { s.link with receiver := .length (some v) } }
      | .length (some low) =>
          t = if 3 ≤ low.toNat + 256 * v.toNat ∧ low.toNat + 256 * v.toNat ≤ 1027 then
              { s with link := { s.link with receiver := .body (low.toNat + 256 * v.toNat) [] } }
            else { s with link := { s.link with receiver := .hunt, counters :=
              { s.link.counters with length := min 65535 (s.link.counters.length + 1) } } }
      | .body len held =>
          t = if held.length + 1 < len then { s with link := { s.link with receiver := .body len (held ++ [v]) } }
            else { s with link := { s.link with receiver := .check len (held ++ [v]) none } }
      | .check len held none => t = { s with link := { s.link with receiver := .check len held (some v) } }
      | .check len held (some low) => t = { s with link := { s.link with receiver := .complete len held low v } }
      | .complete _ _ _ _ => ∀ u, exec .frame s = .next u → t =
          if v = 0x5A then { u with link := { u.link with receiver := .length none } } else u)

/-- R145, R146, R187, R188: the bytes of a frame, received one after another in HUNT, complete that frame with a CRC
that matches, whatever its CLASS, SEQ, CODE and payload, and change nothing else. That the completed frame then waits for the
FRAME step is the model's choice (notes/assumptions/4.md). -/
def Obligations.SentFrameIsReceived : Prop :=
  ∀ (s : State) (cls seq code : Byte) (payload : List Byte), s.phase = .running → s.link.receiver = .hunt →
    s.link.straddling = false → s.pending = [] → payload.length ≤ 1024 →
    ∃ low high,
      Host.Core.run Sys2Proof.core (frameBytes cls seq code payload).length
          { s with pending := (frameBytes cls seq code payload).map .receivedByte } =
        .next { s with link := { s.link with
          receiver := .complete (payload.length + 3) (cls :: seq :: code :: payload) low high } } ∧
      crcMatches (payload.length + 3) (cls :: seq :: code :: payload) low high = true

/-- R148, R149: a gap of more than 10 ms inside a frame gives it up and counts it; in HUNT no time is measured, and that a
GAP_TIMEOUT there changes nothing is the model's choice (notes/assumptions/1.md). R147, R149, R187: a completed frame with a
wrong CRC, or whose CLASS marks no request, is discarded and counted. -/
def Obligations.DamagedFramesAreCounted : Prop :=
  (∀ s : State, s.phase = .running →
    (s.link.receiver = .hunt → exec .gapTimeout s = .next s) ∧
    ((∃ low, s.link.receiver = .length low) ∨ (∃ len held, s.link.receiver = .body len held) ∨
        (∃ len held low, s.link.receiver = .check len held low) →
      exec .gapTimeout s = .next { s with link := { s.link with receiver := .hunt, counters :=
        { s.link.counters with gap := min 65535 (s.link.counters.gap + 1) } } })) ∧
  ((∀ (s : State) (len : Nat) (held : List Byte) (low high : Byte), s.phase = .running →
    s.link.receiver = .complete len held low high → crcMatches len held low high = false →
    exec .frame s = .next { s with link := { s.link with receiver := .hunt, counters :=
      { s.link.counters with crc := min 65535 (s.link.counters.crc + 1) } } }) ∧
  ∀ (s : State) (cls seq code : Byte) (payload : List Byte), frameReceived s cls seq code payload →
    cls &&& 0x7F ≠ 0x01 →
    exec .frame s = .next { s with link := { s.link with receiver := .hunt, counters :=
      { s.link.counters with cls := min 65535 (s.link.counters.cls + 1) } } })

/-- R150: with the session CLOSED, a checked request other than Hello is answered NOT_OPEN. R155, R154: the admission
of a checked request other than Hello while the session is OPEN, row by row: a retry of a cached reply is answered
with it; a retry of an outstanding request is discarded; a fresh request with an outstanding SEQ is SEQ_BUSY; any
other is taken as new, its SEQ leaving the cache, and is WAITING at the tail, or NOBUF when the table is full; that the SEQ leaves the
cache even then is the model's reading (notes/assumptions/16.md). -/
def Obligations.RequestsAreAdmitted : Prop :=
  (∀ (s : State) (cls seq code : Byte) (payload : List Byte), frameReceived s cls seq code payload →
    cls &&& 0x7F = 0x01 → code ≠ 0x01 → s.link.sessionOpen = false →
    exec .frame s = .next (queueAnswer (statusAnswer seq code .notOpen)
      { s with link := { s.link with receiver := .hunt } })) ∧
  (∀ (s : State) (cls seq code : Byte) (payload : List Byte), frameReceived s cls seq code payload →
    cls &&& 0x7F = 0x01 → code ≠ 0x01 → s.link.sessionOpen = true →
    (tableSeqs s.link.table ++ s.link.cache.map (·.seq)).Nodup →
    (∀ r ∈ s.link.cache, r.seq = seq → r.code = code → cls.getLsbD 7 = true →
      exec .frame s = .next (queueAnswer (resendAnswer r) { s with link := { s.link with receiver := .hunt } })) ∧
    (seq ∈ tableSeqs s.link.table → cls.getLsbD 7 = true →
      exec .frame s = .next { s with link := { s.link with receiver := .hunt } }) ∧
    (seq ∈ tableSeqs s.link.table → cls.getLsbD 7 = false →
      exec .frame s = .next (queueAnswer (statusAnswer seq code .seqBusy)
        { s with link := { s.link with receiver := .hunt } })) ∧
    (seq ∉ tableSeqs s.link.table → (∀ r ∈ s.link.cache, r.seq = seq → r.code ≠ code ∨ cls.getLsbD 7 = false) →
      (s.link.table.length < 8 →
        exec .frame s = .next { s with link := { s.link with
          receiver := .hunt
          cache := s.link.cache.filter fun r => decide (r.seq ≠ seq)
          table := s.link.table ++
            [{ seq := seq, code := code, payload := payload, state := .waiting, orphaned := false }] } }) ∧
      (8 ≤ s.link.table.length → s.link.replies.length < 16 →
        exec .frame s = .next { s with link := { s.link with
          receiver := .hunt
          cache := s.link.cache.filter fun r => decide (r.seq ≠ seq)
          replies := s.link.replies ++ [statusAnswer seq code .nobuf]
          counters := { s.link.counters with nobuf := min 65535 (s.link.counters.nobuf + 1) } } })))

/-! ### Hello -/

/-- R151, R186, R190: a Hello with protocol version 1 opens a CLOSED session, clears the counters and answers with the
21 bytes of the identity and the reset cause; a Hello of another length is BAD_LENGTH, of another version BAD_FIELD, and
changes nothing. By the model's choice (notes/assumptions/4.md) FRAME and HELLO are this one event. -/
def Obligations.HelloOpensTheSession : Prop :=
  (∀ (s : State) (cls seq : Byte) (payload : List Byte), frameReceived s cls seq 0x01 payload → cls &&& 0x7F = 0x01 →
    s.link.sessionOpen = false → s.link.restartTaken = false → s.link.replies.length < 16 →
    (payload.length ≠ 1 → exec .hello s = .next { s with link := { s.link with
      receiver := .hunt, replies := s.link.replies ++ [statusAnswer seq 0x01 .badLength] } }) ∧
    ∀ b : Byte, payload = [b] → b ≠ 1 → exec .hello s = .next { s with link := { s.link with
      receiver := .hunt, replies := s.link.replies ++ [statusAnswer seq 0x01 .badField] } }) ∧
  ∀ (s : State) (cls seq : Byte), frameReceived s cls seq 0x01 [0x01] → cls &&& 0x7F = 0x01 →
    s.link.sessionOpen = false → s.link.restartTaken = false → s.link.replies.length < 16 →
    exec .hello s = .next { s with link := { s.link with
      receiver := .hunt
      sessionOpen := true
      counters := ⟨0, 0, 0, 0, 0⟩
      replies := s.link.replies ++ [{
        reply := { seq := seq, code := 0x01, payload :=
          [0x00, 0x31, 0x0D, 0x06, 0x08, 0x01, 0x01, 8, 16, 2, 0, 0, 1, 0, 4, 8, 8, 16, 0, 4,
            match s.link.resetCause with
            | .pin => 1
            | .restart => 2] }
        origin := .hello
        effect := .nothing }] } } ∧
    exec .frame s = exec .hello s

/-- R152, R162, R172: a Hello accepted in an OPEN session: the WAITING entries and those whose reply has not begun leave,
the DEFERRED ones are orphaned, replies, cache, counters and credit are cleared, a reply already begun is sent whole but
not cached, the identity is answered with the cause NONE, and nothing else changes. R151: the RETRY flag alone changes
nothing of that; a Hello with the flag whose SEQ matches a cached reply to a Hello is answered with that reply and does
nothing more; a refused Hello changes nothing but the reply queue. R153: a Hello checked in the Restart interval is
discarded. By the model's choice (notes/assumptions/4.md) the receiver returns to HUNT in this step. -/
def Obligations.HelloReopensTheSession : Prop :=
  (∀ (s : State) (cls seq : Byte) (payload : List Byte), frameReceived s cls seq 0x01 payload → cls &&& 0x7F = 0x01 →
    s.link.sessionOpen = true → s.link.restartTaken = false →
    (cls.getLsbD 7 = false ∨ ∀ r ∈ s.link.cache, r.seq = seq → r.code ≠ 0x01) →
    (payload = [0x01] → exec .hello s = .next { s with
      notices := { s.notices with credit := 0 }
      link := { s.link with
        receiver := .hunt
        table := (s.link.table.filter fun r =>
          match r.state with
          | .waiting => false
          | .executing => replyBegun s.link.transmitter r
          | .deferred _ => true).map (fun r =>
          match r.state with
          | .waiting => r
          | .executing => r
          | .deferred _ => { r with orphaned := true })
        replies := [{
          reply := { seq := seq, code := 0x01, payload :=
            [0x00, 0x31, 0x0D, 0x06, 0x08, 0x01, 0x01, 8, 16, 2, 0, 0, 1, 0, 4, 8, 8, 16, 0, 4, 0] }
          origin := .hello
          effect := .nothing }]
        cache := []
        counters := ⟨0, 0, 0, 0, 0⟩
        transmitter := match s.link.transmitter with
          | .idle => .idle
          | .sendingReply q _ => .sendingReply q false
          | .sendingNotice n m => .sendingNotice n m } }) ∧
    (payload.length ≠ 1 → exec .hello s = .next (queueAnswer (statusAnswer seq 0x01 .badLength)
      { s with link := { s.link with receiver := .hunt } })) ∧
    ∀ b : Byte, payload = [b] → b ≠ 1 → exec .hello s = .next (queueAnswer (statusAnswer seq 0x01 .badField)
      { s with link := { s.link with receiver := .hunt } })) ∧
  (∀ (s : State) (cls seq : Byte) (payload : List Byte) (r : Reply), frameReceived s cls seq 0x01 payload →
    cls &&& 0x7F = 0x01 → s.link.sessionOpen = true → s.link.restartTaken = false → cls.getLsbD 7 = true →
    (s.link.cache.map (·.seq)).Nodup → r ∈ s.link.cache → r.seq = seq → r.code = 0x01 →
    exec .hello s = .next (queueAnswer (resendAnswer r) { s with link := { s.link with receiver := .hunt } })) ∧
  (∀ (s : State) (cls seq : Byte) (payload : List Byte), frameReceived s cls seq 0x01 payload → cls &&& 0x7F = 0x01 →
    s.link.restartTaken = true →
    exec .hello s = .next { s with link := { s.link with receiver := .hunt } })

/-! ### The transmitter and the notices -/

/-- R161, R162: with the line free the oldest reply leaves the reply queue and is begun. R154, R156, R162: the end of
a reply with nothing to follow: an entry's reply takes its entry out of the table and enters the cache, unless it was
begun before a reopening Hello; a forgotten one changes nothing but the line. R151: the reply of an accepted Hello takes the
place of a cached reply with its SEQ, unless an entry that is not orphaned holds the SEQ, when it is not cached. R144: the
line changes rate when the last byte of the Set Parameter's reply has been sent, the reply settled like any other entry's,
and a partial frame is discarded without being counted. -/
def Obligations.RepliesAreSentInOrder : Prop :=
  (∀ (s : State) (q : QueuedReply) (rest : List QueuedReply), s.phase = .running → s.link.transmitter = .idle →
    s.link.replies = q :: rest →
    exec .replyBegin s = .next { s with link := { s.link with replies := rest, transmitter := .sendingReply q true } }) ∧
  (∀ (s : State) (q : QueuedReply) (cacheable : Bool), s.link.transmitter = .sendingReply q cacheable →
    q.effect = .nothing →
    (q.origin = .entry → exec .replySent s = .next { s with link := { s.link with
      transmitter := .idle
      table := s.link.table.eraseP fun r => decide (r.seq = q.reply.seq ∧ r.orphaned = false ∧ r.state = .executing)
      cache := if cacheable = true then
          (if 8 ≤ s.link.cache.length then s.link.cache.drop 1 else s.link.cache) ++ [q.reply]
        else s.link.cache } }) ∧
    (q.origin = .hello → cacheable = true →
      ((∃ r ∈ s.link.table, r.seq = q.reply.seq ∧ r.orphaned = false) → exec .replySent s = .next { s with link :=
        { s.link with transmitter := .idle, cache := s.link.cache.filter fun r => decide (r.seq ≠ q.reply.seq) } }) ∧
      ((∀ r ∈ s.link.table, r.seq = q.reply.seq → r.orphaned = true) → exec .replySent s = .next { s with link :=
        { s.link with
          transmitter := .idle
          cache := (if 8 ≤ (s.link.cache.filter fun r => decide (r.seq ≠ q.reply.seq)).length then
              (s.link.cache.filter fun r => decide (r.seq ≠ q.reply.seq)).drop 1
            else s.link.cache.filter fun r => decide (r.seq ≠ q.reply.seq)) ++ [q.reply] } })) ∧
    (q.origin = .hello → cacheable = false →
      exec .replySent s = .next { s with link := { s.link with transmitter := .idle } }) ∧
    (q.origin = .forgotten → exec .replySent s = .next { s with link := { s.link with transmitter := .idle } })) ∧
  (∀ (s : State) (q : QueuedReply) (cacheable : Bool) (baud : Nat), s.link.transmitter = .sendingReply q cacheable →
    q.effect = .lineRate baud → (∀ len held low high, s.link.receiver ≠ .complete len held low high) →
    ∃ t, exec .replySent s = .next t ∧ t = { s with link := t.link } ∧ t.link.lineRate = baud ∧
      t.link.receiver = .hunt ∧ t.link.counters = s.link.counters ∧ t.link.transmitter = .idle ∧
      t.link.replies = s.link.replies ∧ t.link.sessionOpen = s.link.sessionOpen ∧
      (q.origin = .entry →
        t.link.table = (s.link.table.eraseP fun r =>
          decide (r.seq = q.reply.seq ∧ r.orphaned = false ∧ r.state = .executing)) ∧
        t.link.cache = if cacheable = true then
            (if 8 ≤ s.link.cache.length then s.link.cache.drop 1 else s.link.cache) ++ [q.reply]
          else s.link.cache))

/-- R162, R169, R171: with the line free, no reply waiting and credit above 0, the oldest notice is begun: credit
falls, the SEQ counter advances, and a Notice Loss notice takes the freed place if drops are unreported. The line carries
it as a frame of the notice class. Without credit no notice is begun (R170), nor while a reply waits or the line is not
free; that a NOTICE_BEGIN which cannot occur changes nothing is the model's choice (notes/assumptions/1.md). At its end the
line is free. -/
def Obligations.NoticesGoAgainstCredit : Prop :=
  (∀ (s : State) (n : Notice) (rest : List Notice), s.phase = .running → s.link.transmitter = .idle →
    s.link.replies = [] → s.notices.items = n :: rest → 0 < s.notices.credit →
    exec .noticeBegin s = .next { s with
      notices := {
        items := rest ++ (if 0 < s.notices.lost then [.noticeLoss s.notices.lost] else [])
        credit := s.notices.credit - 1
        lost := 0
        seqCounter := s.notices.seqCounter + 1 }
      link := { s.link with transmitter := .sendingNotice s.notices.seqCounter n } }) ∧
  (∀ s : State, s.notices.credit = 0 → exec .noticeBegin s = .next s) ∧
  (∀ s : State, s.link.replies ≠ [] ∨ s.link.transmitter ≠ .idle → exec .noticeBegin s = .next s) ∧
  ∀ (s : State) (seq : Byte) (n : Notice), s.link.transmitter = .sendingNotice seq n →
    frameOnLine s = some (frameBytes 0x03 seq (noticeCode n) (noticePayload n)) ∧
    exec .noticeSent s = .next { s with link := { s.link with transmitter := .idle } }

/-- R161, R168: a notice joins below 16 and is counted else; an immediate answer joins below 16 replies and is counted
else. R154, R157, R158: what an answer, a deferral and the end of deferred work do at the Request Table and the reply
queue; the operations every request's own statement names. -/
def Obligations.AnswersAndOffersJoinTheirQueues : Prop :=
  ((∀ (n : Notice) (s : State), offerNotice n s = { s with notices := { s.notices with
      items := if s.notices.items.length < 16 then s.notices.items ++ [n] else s.notices.items
      lost := if s.notices.items.length < 16 then s.notices.lost else min 65535 (s.notices.lost + 1) } }) ∧
  ∀ (q : QueuedReply) (s : State), queueAnswer q s = { s with link := { s.link with
      replies := if s.link.replies.length < 16 then s.link.replies ++ [q] else s.link.replies
      counters := { s.link.counters with
        nobuf := if s.link.replies.length < 16 then s.link.counters.nobuf
          else min 65535 (s.link.counters.nobuf + 1) } } }) ∧
  ((∀ (s : State) (before after : List Request) (r : Request) (st : Status) (fields : List Byte) (effect : ReplyEffect),
    s.link.table = before ++ r :: after → (∀ q ∈ before, q.state ≠ .waiting) → r.state = .waiting →
    answerEntry r st fields effect s = { s with link := { s.link with
      table := before ++ { r with state := .executing, payload := [] } :: after
      replies := s.link.replies ++ [{
        reply := { seq := r.seq, code := r.code, payload := statusByte st :: fields }
        origin := .entry
        effect := effect }] } } ∧
    ∀ work, deferEntry work s = { s with link := { s.link with
      table := before ++ { r with state := .deferred work, payload := [] } :: after } }) ∧
  ∀ (s : State) (work : Work) (st : Status) (fields : List Byte), finishWork work st fields s = { s with link := { s.link with
    table := (s.link.table.filter fun r => !(decide (r.state = .deferred work) && r.orphaned)).map fun r =>
      if r.state = .deferred work then { r with state := .executing } else r
    replies := s.link.replies ++ (s.link.table.filter fun r => decide (r.state = .deferred work) && !r.orphaned).map fun r =>
      { reply := { seq := r.seq, code := r.code, payload := statusByte st :: fields }, origin := .entry, effect := .nothing } } })

/-! ### The dispatcher -/

/-- R158 to R160: the dispatcher takes no entry out of normal running, in the Restart interval, with none WAITING, or
while the oldest WAITING entry is held; then no taking changes anything. That none is taken out of normal running rests on
R184 and R185, and that a taking which cannot occur changes nothing is the model's choice (notes/assumptions/1.md, 5.md). R159: what holds the oldest WAITING entry, by
its CODE and, for Read Pixels, its plane field. -/
def Obligations.HeldDispatcherTakesNothing : Prop :=
  (∀ c ∈ dispatcherCommands, ∀ s : State,
    s.phase ≠ .running ∨ s.link.restartTaken = true ∨ (∀ r ∈ s.link.table, r.state ≠ .waiting) ∨
        (∃ before r after, s.link.table = before ++ r :: after ∧ (∀ q ∈ before, q.state ≠ .waiting) ∧
          r.state = .waiting ∧ held s r = true) →
      exec c s = .next s) ∧
  (∀ (s : State) (r : Request), held s r = true ↔
    (r.code = 0x30 ∧ s.raster.jobs ≠ []) ∨ (r.code = 0x33 ∧ r.payload.head? = some 0 ∧ s.raster.jobs ≠ []) ∨
      ((r.code = 0x38 ∨ r.code = 0x39) ∧ 4 ≤ s.raster.jobs.length))

/-- R158: the oldest WAITING entry, not held, is the one taken; one whose CODE names no request is refused with
UNKNOWN_CODE whatever its payload. -/
def Obligations.UnknownCodesAreRefused : Prop :=
  ∀ (s : State) (before after : List Request) (r : Request), s.phase = .running → s.link.restartTaken = false →
    s.link.table = before ++ r :: after → (∀ q ∈ before, q.state ≠ .waiting) → r.state = .waiting →
    (held s r = false → nextRequest s = some r) ∧
    ((∀ c, requestCodeByte c ≠ r.code) → exec .unknownCode s = .next (answerEntry r .unknownCode [] .nothing s))

/-! ### Parameters, status, Restart, credit -/

/-- R180, R190: Get Status answers with 144 bytes, each item at its offset; any payload is BAD_LENGTH. -/
def Obligations.GetStatusReportsEveryBlock : Prop :=
  ∀ (s : State) (r : Request), takes s .getStatus r →
    (r.payload ≠ [] → exec .getStatus s = .next (answerEntry r .badLength [] .nothing s)) ∧
    (r.payload = [] → exec .getStatus s = .next (answerEntry r .ok (statusRecord s) .nothing s)) ∧
    (0x00 :: statusRecord s).length = 144 ∧
    ∀ item ∈ [(1, [railStateByte s.rails.state, faultCauseByte s.rails.faultCause, flagByte s.rails.fastFall]),
        (4, [frameTimerByte s.frameTimer, haltStateByte s.halt, flagByte (busyOutput s)]),
        (7, [byteOf (s.link.table.filter fun r => decide (r.state = .deferred .halt)).length]),
        (8, slotRecord s.slots[0]), (15, slotRecord s.slots[1]), (22, slotRecord s.slots[2]), (29, slotRecord s.slots[3]),
        (36, slotRecord s.slots[4]), (43, slotRecord s.slots[5]), (50, slotRecord s.slots[6]), (57, slotRecord s.slots[7]),
        (64, byteOf s.queue.length :: leBytes 2 s.idCounter), (67, bankRecord s.bankA), (77, bankRecord s.bankB),
        (87, byteOf (tempSourceNat s.params.tempSource) :: readingRecord s), (93, loadRecord s.load),
        (111, byteOf s.raster.jobs.length :: leBytes 4 (runningJobNumber s.raster)), (116, leBytes 4 s.raster.mark),
        (120, leBytes 4 (jobCounterNat s.raster.counter)),
        (124, [byteOf s.notices.items.length, byteOf s.notices.credit]), (126, leBytes 2 s.notices.lost),
        (128, [s.notices.seqCounter]), (129, leBytes 2 s.link.counters.crc),
        (131, leBytes 2 s.link.counters.gap), (133, leBytes 2 s.link.counters.length),
        (135, leBytes 2 s.link.counters.cls), (137, leBytes 2 s.link.counters.nobuf),
        (139, leBytes 4 s.link.lineRate), (143, [byteOf s.link.table.length])],
      ((0x00 :: statusRecord s).drop item.1).take item.2.length = item.2

/-- R177, R178: the checks of Set Parameter and Get Parameter in their order. Get Parameter answers with the value held.
Set Parameter of a value in range stores it, leaves every other parameter, and answers with the value; a new LINE_RATE
follows the reply (R144). A value equal to the one held changes nothing. R90: a change of TEMP_SOURCE discards the
reading, abandons a conversion and, for INTERNAL, starts one. R88: a change of STALE_LIMIT judges the reading: it becomes
stale with its notice, or valid with an evaluation, or stays as it was. -/
def Obligations.ParametersAreReadAndStored : Prop :=
  (∀ (s : State) (r : Request),
    (takes s .getParameter r →
      (r.payload.length ≠ 1 → exec .getParameter s = .next (answerEntry r .badLength [] .nothing s)) ∧
      (∀ b : Byte, r.payload = [b] → (∀ q, paramByte q ≠ b) →
        exec .getParameter s = .next (answerEntry r .badField [] .nothing s)) ∧
      ∀ q : ParamId, r.payload = [paramByte q] →
        exec .getParameter s = .next (answerEntry r .ok (paramByte q :: leBytes 4 (paramValue q s.params)) .nothing s)) ∧
    (takes s .setParameter r →
      (r.payload.length ≠ 5 → exec .setParameter s = .next (answerEntry r .badLength [] .nothing s)) ∧
      (∀ (b : Byte) (v : List Byte), r.payload = b :: v → v.length = 4 → (∀ q, paramByte q ≠ b) →
        exec .setParameter s = .next (answerEntry r .badField [] .nothing s)) ∧
      ∀ (q : ParamId) (v : Nat), r.payload = paramByte q :: leBytes 4 v → v < 4294967296 →
        (paramInRange q v = false → exec .setParameter s = .next (answerEntry r .badValue [] .nothing s)) ∧
        (paramInRange q v = true → v = paramValue q s.params →
          exec .setParameter s = .next (answerEntry r .ok (paramByte q :: leBytes 4 v) .nothing s)) ∧
        (paramInRange q v = true → v ≠ paramValue q s.params →
          (q ≠ .tempSource → q ≠ .staleLimit →
            exec .setParameter s = .next (answerEntry r .ok (paramByte q :: leBytes 4 v)
              (if q = .lineRate then .lineRate v else .nothing) { s with params := paramStore q v s.params })) ∧
          (q = .tempSource → v = 1 → exec .setParameter s = .next (answerEntry r .ok [0x06, 1, 0, 0, 0] .nothing { s with
            params := { s.params with tempSource := .fromHost }
            temp := { reading := none, converting := false, nextStart := none } })) ∧
          (q = .tempSource → v = 0 → exec .setParameter s = .next (answerEntry r .ok [0x06, 0, 0, 0, 0] .nothing { s with
            params := { s.params with tempSource := .fromSensor }
            temp := { reading := none, converting := true, nextStart := some s.params.samplePeriod } })) ∧
          (q = .staleLimit → s.temp.reading = none → exec .setParameter s = .next
            (answerEntry r .ok (0x08 :: leBytes 4 v) .nothing { s with params := { s.params with staleLimit := v } })) ∧
          (q = .staleLimit → ∀ g, s.temp.reading = some g →
            (decide (g.age ≤ s.params.staleLimit) = decide (g.age ≤ v) → exec .setParameter s = .next
              (answerEntry r .ok (0x08 :: leBytes 4 v) .nothing { s with params := { s.params with staleLimit := v } })) ∧
            (g.age ≤ s.params.staleLimit → v < g.age → exec .setParameter s = .next (offerNotice (.tempStale g.value g.age)
              (answerEntry r .ok (0x08 :: leBytes 4 v) .nothing { s with params := { s.params with staleLimit := v } }))) ∧
            (s.params.staleLimit < g.age → g.age ≤ v → exec .setParameter s = .next (evaluate
              (answerEntry r .ok (0x08 :: leBytes 4 v) .nothing { s with params := { s.params with staleLimit := v } }))))))) ∧
  ∀ (q p : ParamId) (v : Nat) (ps : Params), paramInRange q v = true →
    paramValue q (paramStore q v ps) = v ∧ (p ≠ q → paramValue p (paramStore q v ps) = paramValue p ps)

/-- R182: Restart queues its reply, after which the Restart takes effect, and the dispatcher takes no further entry (R160);
that its commands then change nothing is the model's choice (notes/assumptions/1.md). R170: a grant of 1 to 255 is added to the credit, up to 255; a grant of 0 is BAD_FIELD and any other length
BAD_LENGTH. -/
def Obligations.RestartAndGrantAreTaken : Prop :=
  (∀ (s : State) (r : Request), takes s .restart r →
    (r.payload ≠ [] → exec .restart s = .next (answerEntry r .badLength [] .nothing s)) ∧
    (r.payload = [] → ∃ t, exec .restart s = .next t ∧ t.link.restartTaken = true ∧
      t = { answerEntry r .ok [] .restart s with link := { (answerEntry r .ok [] .restart s).link with restartTaken := true } } ∧
      ∀ c ∈ dispatcherCommands, exec c t = .next t)) ∧
  (∀ (s : State) (r : Request), takes s .grantNotices r →
    (r.payload.length ≠ 1 → exec .grantNotices s = .next (answerEntry r .badLength [] .nothing s)) ∧
    (r.payload = [0] → exec .grantNotices s = .next (answerEntry r .badField [] .nothing s)) ∧
    ∀ b : Byte, r.payload = [b] → b ≠ 0 →
      exec .grantNotices s = .next (answerEntry r .ok [BitVec.ofNat 8 (min 255 (s.notices.credit + b.toNat))] .nothing
        { s with notices := { s.notices with credit := min 255 (s.notices.credit + b.toNat) } }))

/-! ### Updates -/

/-- R14, R21 to R24: an accepted Submit Update appends its entry, moves the counter on, is answered with the id, and
starts are evaluated after the reply is queued. -/
def Obligations.SubmitUpdateIsAccepted : Prop :=
  ∀ (s : State) (r : Request) (rect : Region) (mode : Nat) (policy : Policy) (skip notify : Bool),
    takes s .submitUpdate r →
    r.payload = rectBytes rect.val ++ [byteOf mode, policyByte policy, flagByte skip, flagByte notify] → mode < 16 →
    activeBank s ≠ none → activeMode s mode ≠ none → s.queue.length < 16 →
    (policy = .refuse → overlapsSlot s rect.val = false ∧ overlapsEntry s.queue rect.val = false) →
    exec .submitUpdate s = .next (evaluate (answerEntry r .ok (leBytes 2 (allocateId s)) .nothing { s with
      idCounter := if allocateId s = 65535 then 1 else allocateId s + 1
      queue := s.queue ++ [{
        id := allocateId s
        rect := rect
        mode := mode
        policy := policy
        skipUnchanged := skip
        notifyStart := notify
        rasterFence := s.raster.jobs.getLast?.map (·.number)
        loadFence := s.load.isSome }] }))

/-- R14 to R19: the checks of a Submit Update in their order; a refused one changes nothing but its own entry and the
reply queue. -/
def Obligations.SubmitUpdateChecksInOrder : Prop :=
  ∀ (s : State) (r : Request), takes s .submitUpdate r →
    (r.payload.length ≠ 12 → exec .submitUpdate s = .next (answerEntry r .badLength [] .nothing s)) ∧
    ∀ (rect : Rect) (mode policy skip notify : Byte),
      r.payload = rectBytes rect ++ [mode, policy, skip, notify] →
      rect.col < 65536 → rect.row < 65536 → rect.width < 65536 → rect.height < 65536 →
      (15 < mode.toNat ∨ 1 < policy.toNat ∨ 1 < skip.toNat ∨ 1 < notify.toNat →
        exec .submitUpdate s = .next (answerEntry r .badField [] .nothing s)) ∧
      (mode.toNat ≤ 15 → policy.toNat ≤ 1 → skip.toNat ≤ 1 → notify.toNat ≤ 1 →
        (rectValid rect = false → exec .submitUpdate s = .next (answerEntry r .badRect [] .nothing s)) ∧
        (rectValid rect = true →
          (activeBank s = none → exec .submitUpdate s = .next (answerEntry r .noWaveform [] .nothing s)) ∧
          (activeBank s ≠ none →
            (activeMode s mode.toNat = none → exec .submitUpdate s = .next (answerEntry r .modeAbsent [] .nothing s)) ∧
            (activeMode s mode.toNat ≠ none →
              (16 ≤ s.queue.length → exec .submitUpdate s = .next (answerEntry r .queueFull [] .nothing s)) ∧
              (s.queue.length < 16 → policy = 1 → overlapsSlot s rect = true ∨ overlapsEntry s.queue rect = true →
                exec .submitUpdate s = .next (answerEntry r .collision [] .nothing s))))))

/-- R21: the id an accepted update takes is the counter's value when free, is in range, and is held by no queued or
active update. -/
def Obligations.UpdateIdIsFresh : Prop :=
  ∀ s : State, QueueLaw s → s.queue.length < 16 →
    allocateId s ∉ idsInUse s ∧ isUpdateId (allocateId s) ∧ (s.idCounter ∉ idsInUse s → allocateId s = s.idCounter)

/-- R34 to R36: Cancel Update removes a queued entry with a CANCELLED notice and an evaluation, refuses an active one
with IN_DRIVE and any other id with NOT_FOUND; Query Update reports where the update stands and changes nothing, and of a
queued one every start condition that fails, bit 0 for (a) to bit 7 for (h) (R37, R190); a payload of the wrong length is
BAD_LENGTH. -/
def Obligations.CancelAndQueryFindTheUpdate : Prop :=
  (∀ (s : State) (r : Request), r.payload.length ≠ 2 →
    (takes s .cancelUpdate r → exec .cancelUpdate s = .next (answerEntry r .badLength [] .nothing s)) ∧
    (takes s .queryUpdate r → exec .queryUpdate s = .next (answerEntry r .badLength [] .nothing s))) ∧
  ∀ (s : State) (r : Request) (id : Nat), r.payload = leBytes 2 id → id < 65536 →
    (takes s .cancelUpdate r →
      (id ∈ s.queue.map (·.id) → exec .cancelUpdate s = .next (evaluate (answerEntry r .ok [] .nothing
        (offerNotice (.updateEnded id .cancelled 0 0) { s with queue := s.queue.filter fun x => decide (x.id ≠ id) })))) ∧
      (id ∉ s.queue.map (·.id) → id ∈ (activeUpdates s).map (·.id) →
        exec .cancelUpdate s = .next (answerEntry r .inDrive [] .nothing s)) ∧
      (id ∉ idsInUse s → exec .cancelUpdate s = .next (answerEntry r .notFound [] .nothing s))) ∧
    (takes s .queryUpdate r →
      (∀ older x younger, s.queue = older ++ x :: younger → x.id = id → (∀ y ∈ older, y.id ≠ id) →
        ∃ unmet : Byte, (∀ k : Fin 8, unmet.getLsbD k.val = true ↔ ¬ startCondition s older x k) ∧
          exec .queryUpdate s = .next (answerEntry r .ok [1, byteOf older.length, unmet, policyByte x.policy,
            byteOf x.mode, 0, 0, 0] .nothing s)) ∧
      (∀ (i : Fin 8) (u : Update), (idsInUse s).Nodup → u.id = id →
        (s.slots[i] = .armed u →
          exec .queryUpdate s = .next (answerEntry r .ok [2, 0, 0, 0, 0, byteOf i.val, 0, 0] .nothing s)) ∧
        (s.slots[i] = .driving u →
          exec .queryUpdate s = .next
            (answerEntry r .ok [3, 0, 0, 0, 0, byteOf i.val, byteOf u.index, byteOf u.frames] .nothing s))) ∧
      (id ∉ idsInUse s →
        exec .queryUpdate s = .next (answerEntry r .ok [0, 0, 0, 0, 0, 0, 0, 0] .nothing s)))

/-! ### Starts -/

/-- R25: an entry is startable exactly when its eight start conditions hold. R27: an evaluation ends with no startable
entry left in the queue: each has a start condition that fails. -/
def Obligations.EvaluationLeavesNothingStartable : Prop :=
  (∀ (s : State) (older : List Entry) (x : Entry),
    startable s older x = true ↔ ∀ k : Fin 8, startCondition s older x k) ∧
  ∀ (s : State) (older younger : List Entry) (x : Entry), (evaluateStarts s).queue = older ++ x :: younger →
    startable (evaluateStarts s) older x = false ∧ ∃ k : Fin 8, ¬ startCondition (evaluateStarts s) older x k

/-- R26: of two queued entries whose rectangles overlap, an evaluation does not take the younger while the older is
still queued. -/
def Obligations.NoOvertaking : Prop :=
  ∀ (s : State) (older middle younger : List Entry) (x y : Entry), (s.queue.map (·.id)).Nodup →
    s.queue = older ++ x :: middle ++ y :: younger → rectsOverlap x.rect.val y.rect.val = true →
    x ∈ (evaluateStarts s).queue → y ∈ (evaluateStarts s).queue

/-- R28 to R32: an entry that fails a start check leaves the queue without a slot, with one Update Ended notice that
names the first failed check: no such mode in the ACTIVE bank, no band for the reading, and, in a mode without an UNKNOWN
row, a pixel of the rectangle whose Shown value is UNKNOWN. -/
def Obligations.FailedStartChecksEndTheEntry : Prop :=
  ∀ (s : State) (older younger : List Entry) (x : Entry), s.queue = older ++ x :: younger → lowestFree s ≠ none →
    (activeMode s x.mode = none →
      startEntry older x younger s =
        offerNotice (.updateEnded x.id .modeAbsent 0 0) { s with queue := older ++ younger }) ∧
    ∀ (bank : BankId) (m : ModeRecord) (g : Reading), activeBank s = some bank → activeMode s x.mode = some m →
      s.temp.reading = some g →
      (bandOfReading (boundsOfBytes (bankAt s bank).contents) g.value = none →
        startEntry older x younger s =
          offerNotice (.updateEnded x.id .tempRange 0 0) { s with queue := older ++ younger }) ∧
      ∀ (band : Nat) (d : BandData), bandOfReading (boundsOfBytes (bankAt s bank).contents) g.value = some band →
        m.bands[band]? = some d → m.unknownRow = false →
        sourceUnknown s x.rect.val = true ∨ (PlanesLaw s ∧ shownUnknown s x.rect) →
        startEntry older x younger s =
          offerNotice (.updateEnded x.id .unknownSource 0 0) { s with queue := older ++ younger }

/-- R41, R43: an entry that passes the start checks leaves the queue and arms into the FREE slot with the lowest number,
with the ACTIVE bank, the band of the reading and that band's F; the source check passes in a mode with an UNKNOWN row, and
where no pixel of the rectangle is UNKNOWN in Shown (R31). R27: an evaluation takes the oldest startable entry first
and goes on from there, and with no entry startable it changes nothing. -/
def Obligations.StartableEntriesArmInOrder : Prop :=
  (∀ (s : State) (older younger : List Entry) (x : Entry) (i : Fin 8) (bank : BankId) (m : ModeRecord) (g : Reading)
      (band : Nat) (d : BandData),
    s.slots[i] = .free → (∀ j : Fin 8, j < i → s.slots[j] ≠ .free) →
    (bankAt s bank).state = .active → (bankAt s (otherBank bank)).state ≠ .active → activeMode s x.mode = some m →
    s.temp.reading = some g → bandOfReading (boundsOfBytes (bankAt s bank).contents) g.value = some band →
    m.bands[band]? = some d →
    m.unknownRow = true ∨ sourceUnknown s x.rect.val = false ∨ (PlanesLaw s ∧ ¬ shownUnknown s x.rect) →
    startEntry older x younger s = arm i x { bank := bank, record := m, band := band, frames := d.frames }
      { s with queue := older ++ younger }) ∧
  (∀ (s : State) (older younger : List Entry) (x : Entry), s.queue = older ++ x :: younger →
    (∀ (before after : List Entry) (y : Entry), older = before ++ y :: after → startable s before y = false) →
    startable s older x = true → evaluateStarts s = evaluateStarts (startEntry older x younger s)) ∧
  (∀ s : State, (∀ (before after : List Entry) (y : Entry), s.queue = before ++ y :: after → startable s before y = false) →
    evaluateStarts s = s)

/-- R4, R43 to R46: arming: the slot's fields, Target the Pending levels (rounded in a two-level mode) over the
rectangle, the changed pixels counted against Shown, the bank's count raised, the notice if asked; and nothing else.
-/
def Obligations.ArmingLatchesAndCounts : Prop :=
  ∀ (i : Fin 8) (e : Entry) (d : StartData) (s : State), PlanesLaw s →
    (∀ x y, rectContains e.rect.val x y = true → ∀ l, planeAt s.pendingPlane x y = some l →
      planeAt (arm i e d s).target x y =
        some (.level (if d.record.twoLevel = true then (if l.val ≤ 7 then 0 else 15) else l))) ∧
    (∀ x y, rectContains e.rect.val x y = false → planeAt (arm i e d s).target x y = planeAt s.target x y) ∧
    (∃ n, (arm i e d s).slots[i] = .armed {
        id := e.id, rect := e.rect, mode := e.mode, bank := d.bank, band := d.band, frames := d.frames, index := 0,
        skipUnchanged := e.skipUnchanged, notifyStart := e.notifyStart, changed := n } ∧
      n = ((rectPixels e.rect.val).filter fun p =>
        decide (planeAt (arm i e d s).target p.1 p.2 ≠ planeAt s.shown p.1 p.2)).length) ∧
    (∀ j : Fin 8, j ≠ i → (arm i e d s).slots[j] = s.slots[j]) ∧
    (bankAt (arm i e d s) d.bank).refCount = (bankAt s d.bank).refCount + 1 ∧
    bankAt (arm i e d s) (otherBank d.bank) = bankAt s (otherBank d.bank) ∧
    (arm i e d s).notices =
      (if e.notifyStart = true then offerTo s.notices (.updateStarted e.id i.val d.band d.frames) else s.notices) ∧
    arm i e d s = { s with
      target := (arm i e d s).target, slots := (arm i e d s).slots, notices := (arm i e d s).notices,
      bankA := { s.bankA with refCount := (arm i e d s).bankA.refCount },
      bankB := { s.bankB with refCount := (arm i e d s).bankB.refCount } }

/-- R94 to R97, R100: an evaluation that makes demand appear takes OFF to RISING (to ON at once with power-good and
SETTLE 0, with the first boundary) and HOLDING to ON with the first boundary; in every other rail state, and without demand appearing, the rails are left alone. -/
def Obligations.DemandActsOnTheRails : Prop :=
  ∀ s : State,
    (demand s = true ∨ demand (evaluateStarts s) = false → evaluate s = evaluateStarts s) ∧
    (demand s = false → demand (evaluateStarts s) = true →
      (s.rails.state = .off → s.powerGood = false → evaluate s = { evaluateStarts s with rails :=
        { Rails.reset with state := .rising, risePhase := some .waiting, riseTimer := .running s.params.riseLimit,
                           settleValue := some s.params.settle } }) ∧
      (s.rails.state = .off → s.powerGood = true → 0 < s.params.settle → evaluate s = { evaluateStarts s with rails :=
        { Rails.reset with state := .rising, risePhase := some .settling, riseTimer := .running s.params.riseLimit,
                           settleValue := some s.params.settle, settleTimer := some s.params.settle } }) ∧
      (s.rails.state = .off → s.powerGood = true → s.params.settle = 0 → evaluate s = deliverBoundary
        { evaluateStarts s with rails := { Rails.reset with state := .on } }) ∧
      (s.rails.state = .holding → evaluate s = deliverBoundary { evaluateStarts s with rails :=
        { Rails.reset with state := .on, fastFall := s.rails.fastFall } }) ∧
      (s.rails.state = .rising ∨ s.rails.state = .on ∨ s.rails.state = .falling ∨ s.rails.state = .fault →
        evaluate s = evaluateStarts s))

/-! ### Frame boundaries, halts -/

/-- R42, R47, R99, R108: a boundary in RUNNING: a DRIVING slot below F goes to the next index, an ARMED one to index
1, one at F drives no more; with demand left the next boundary is one period of the present FRAME_RATE away, else the
Frame Timer stops and the rails go to HOLDING or FALLING. R55, R56: a boundary in HALTING leaves every slot FREE and
the halt state HALTED, arms nothing, answers every deferred Halt, and stops the Frame Timer. R51, R52, R63, R77, R168: the
completions of the first boundary, all before its armings, and the aborts of the second at the planes, the notices and the
banks. -/
def Obligations.BoundariesAdvanceOrAbortTheSlots : Prop :=
  (∀ (s : State) (n : Nat), s.frameTimer = .running n → s.halt = .running → s.rails.state = .on →
    ∃ t, exec .frameBoundary s = .next t ∧
      (∀ (i : Fin 8) (u : Update),
        (s.slots[i] = .driving u → u.index < u.frames → t.slots[i] = .driving { u with index := u.index + 1 }) ∧
        (s.slots[i] = .driving u → u.index = u.frames → isDriving t.slots[i] = false) ∧
        (s.slots[i] = .armed u → t.slots[i] = .driving { u with index := 1 })) ∧
      (demand t = true → t.frameTimer = .running s.params.frameRate ∧ t.rails = s.rails) ∧
      (demand t = false → t.frameTimer = .stopped ∧
        ((s.rails.fastFall = true ∨ s.params.holdTime = 0) →
          t.rails = { Rails.reset with state := .falling, fallTimer := some s.params.fallTime }) ∧
        (s.rails.fastFall = false → 0 < s.params.holdTime →
          t.rails = { s.rails with state := .holding, holdTimer := some s.params.holdTime })) ∧
      t.halt = .running ∧ t.params = s.params ∧ t.pendingPlane = s.pendingPlane ∧ t.load = s.load ∧ t.raster = s.raster ∧
      t.temp = s.temp ∧ t.link = s.link ∧
      (PlanesLaw s → SlotsApart s → ∀ x y : Nat, x < 800 → y < 600 →
        (∀ (i : Fin 8) (u : Update), s.slots[i] = .driving u → u.index = u.frames → rectContains u.rect.val x y = true →
          planeAt t.shown x y = planeAt s.target x y) ∧
        ((∀ (i : Fin 8) (u : Update), s.slots[i] = .driving u → u.index = u.frames → rectContains u.rect.val x y = false) →
          planeAt t.shown x y = planeAt s.shown x y) ∧
        ((∀ (i : Fin 8) (u : Update), t.slots[i] = .armed u → rectContains u.rect.val x y = false) →
          planeAt t.target x y = planeAt s.target x y)) ∧
      (BankLaw s →
        (∃ rest : List Notice,
          t.notices = rest.foldl offerTo ((slotEndNotices atLastFrame .done s).foldl offerTo s.notices) ∧
          ∀ n ∈ rest, (∃ id slot band frames, n = .updateStarted id slot band frames) ∨
            ∃ id result, n = .updateEnded id result 0 0 ∧
              (result = .modeAbsent ∨ result = .tempRange ∨ result = .unknownSource)) ∧
        ∀ bank, bankAt t bank = { bankAt s bank with
          refCount := slotsUsing t bank
          state := if (bankAt s bank).state = .retiring ∧ bankFreedBy atLastFrame s bank 7 = true then .loaded
            else (bankAt s bank).state })) ∧
  (∀ (s : State) (n : Nat), s.frameTimer = .running n → s.halt = .halting → s.rails.state = .on →
    ∃ t, exec .frameBoundary s = .next t ∧ (∀ i : Fin 8, t.slots[i] = .free) ∧ t.halt = .halted ∧ t.queue = s.queue ∧
      t.frameTimer = .stopped ∧ (t.rails.state = .falling ∨ t.rails.state = .holding) ∧
      t.link = (finishWork .halt .ok [] s).link ∧ t.pendingPlane = s.pendingPlane ∧ t.params = s.params ∧
      SlotsAborted .halted s.notices s t)

/-- R51, R52: the planes and the notice at the end of one slot: a completion shows Target over the rectangle; the
abort of an ARMED slot gives Target the Shown values; the abort of a DRIVING slot makes both UNKNOWN; no other pixel
changes, and the slot is FREE. R63, R77, R168: the end of a slot offers its Update Ended notice, lowers its bank's
count, and, when that brings a RETIRING bank to 0, makes the bank LOADED and offers Bank Retired after it. -/
def Obligations.SlotEndsWriteTheirRectangle : Prop :=
  (∀ (s : State) (i : Fin 8) (u : Update) (result : EndResult) (x y : Nat), PlanesLaw s → x < 800 → y < 600 →
    (s.slots[i] = .driving u → (completeSlot i u s).slots[i] = .free ∧
      planeAt (completeSlot i u s).target x y = planeAt s.target x y ∧
      planeAt (completeSlot i u s).shown x y =
        (if rectContains u.rect.val x y = true then planeAt s.target x y else planeAt s.shown x y)) ∧
    (s.slots[i] = .armed u → (abortSlot result s i).slots[i] = .free ∧
      planeAt (abortSlot result s i).shown x y = planeAt s.shown x y ∧
      planeAt (abortSlot result s i).target x y =
        (if rectContains u.rect.val x y = true then planeAt s.shown x y else planeAt s.target x y)) ∧
    (s.slots[i] = .driving u → (abortSlot result s i).slots[i] = .free ∧
      planeAt (abortSlot result s i).shown x y =
        (if rectContains u.rect.val x y = true then some .unknown else planeAt s.shown x y) ∧
      planeAt (abortSlot result s i).target x y =
        (if rectContains u.rect.val x y = true then some .unknown else planeAt s.target x y))) ∧
  (∀ (s : State) (i : Fin 8) (u : Update), s.slots[i] = .driving u →
    (bankAt (completeSlot i u s) u.bank).refCount = (bankAt s u.bank).refCount - 1 ∧
    (bankAt (completeSlot i u s) (otherBank u.bank)) = bankAt s (otherBank u.bank) ∧
    ((bankAt s u.bank).state = .retiring → (bankAt s u.bank).refCount = 1 →
      (bankAt (completeSlot i u s) u.bank).state = .loaded ∧
      (completeSlot i u s).notices =
        offerTo (offerTo s.notices (.updateEnded u.id .done u.frames u.changed)) (.bankRetired u.bank)) ∧
    ((bankAt s u.bank).state ≠ .retiring ∨ 1 < (bankAt s u.bank).refCount →
      (bankAt (completeSlot i u s) u.bank).state = (bankAt s u.bank).state ∧
      (completeSlot i u s).notices = offerTo s.notices (.updateEnded u.id .done u.frames u.changed))) ∧
  (∀ (s : State) (i : Fin 8) (u : Update) (result : EndResult) (driven : Nat),
    (s.slots[i] = .armed u ∧ driven = 0) ∨ (s.slots[i] = .driving u ∧ driven = u.index) →
    (bankAt (abortSlot result s i) u.bank).refCount = (bankAt s u.bank).refCount - 1 ∧
    (bankAt (abortSlot result s i) (otherBank u.bank)) = bankAt s (otherBank u.bank) ∧
    ((bankAt s u.bank).state = .retiring → (bankAt s u.bank).refCount = 1 →
      (bankAt (abortSlot result s i) u.bank).state = .loaded ∧
      (abortSlot result s i).notices =
        offerTo (offerTo s.notices (.updateEnded u.id result driven u.changed)) (.bankRetired u.bank)) ∧
    ((bankAt s u.bank).state ≠ .retiring ∨ 1 < (bankAt s u.bank).refCount →
      (bankAt (abortSlot result s i) u.bank).state = (bankAt s u.bank).state ∧
      (abortSlot result s i).notices = offerTo s.notices (.updateEnded u.id result driven u.changed)))

/-- R54, R57: Halt: with frames running and slots active it is DEFERRED in HALTING with a fast fall PENDING and the
queue flushed if asked; with no frame running every ARMED slot aborts (R52, R63, R77), its notice behind those of the
flush, and the state is HALTED at once; in HALTED it is answered at once; a payload of another length is BAD_LENGTH, a flag of another value BAD_FIELD. R105: a fast-fall
request, by rail state. R58: Resume in each halt state; a payload is BAD_LENGTH. -/
def Obligations.HaltAndResume : Prop :=
  (∀ (s : State) (r : Request), takes s .halt r →
    (r.payload.length ≠ 1 → exec .halt s = .next (answerEntry r .badLength [] .nothing s)) ∧
    ∀ b : Byte, r.payload = [b] → b ≠ 0 → b ≠ 1 → exec .halt s = .next (answerEntry r .badField [] .nothing s)) ∧
  (∀ (s : State) (r : Request) (flush : Bool), takes s .halt r → r.payload = [flagByte flush] →
    (s.halt ≠ .halted → s.rails.state = .on → demand s = true →
      ∃ t, exec .halt s = .next t ∧ t.halt = .halting ∧ t.rails = { s.rails with fastFall := true } ∧
        t.slots = s.slots ∧ t.queue = (if flush = true then [] else s.queue) ∧ t.link = (deferEntry .halt s).link ∧
        t.notices = (if flush = true then
          (s.queue.map fun x => Notice.updateEnded x.id .cancelled 0 0).foldl offerTo s.notices else s.notices)) ∧
    (s.halt ≠ .halted → s.rails.state ≠ .on → (∀ i : Fin 8, isDriving s.slots[i] = false) →
      ∃ t, exec .halt s = .next t ∧ t.halt = .halted ∧ (∀ i : Fin 8, t.slots[i] = .free) ∧
        t.queue = (if flush = true then [] else s.queue) ∧
        t.link = (finishWork .halt .ok [] (deferEntry .halt s)).link ∧ t.rails = (fastFallRequest s).rails ∧
        SlotsAborted .halted (if flush = true then
          (s.queue.map fun x => Notice.updateEnded x.id .cancelled 0 0).foldl offerTo s.notices else s.notices) s t) ∧
    (s.halt = .halted →
      exec .halt s = .next (answerEntry r .ok [] .nothing (fastFallRequest (if flush = true then flushQueue s else s))))) ∧
  (∀ s : State,
    (s.rails.state = .off ∨ s.rails.state = .falling ∨ s.rails.state = .fault → fastFallRequest s = s) ∧
    (s.rails.state = .rising ∨ s.rails.state = .on →
      fastFallRequest s = { s with rails := { s.rails with fastFall := true } }) ∧
    (s.rails.state = .holding → fastFallRequest s = { s with rails :=
      { Rails.reset with state := .falling, fallTimer := some s.params.fallTime } })) ∧
  (∀ (s : State) (r : Request), takes s .resume r →
    (r.payload ≠ [] → exec .resume s = .next (answerEntry r .badLength [] .nothing s)) ∧
    (r.payload = [] →
      (s.halt = .halted →
        exec .resume s = .next (evaluate (answerEntry r .ok [] .nothing { s with halt := .running }))) ∧
      (s.halt = .halting → exec .resume s = .next (answerEntry r .busy [] .nothing s)) ∧
      (s.halt = .running → exec .resume s = .next (answerEntry r .ok [] .nothing s))))

/-! ### Banks -/

/-- R65 to R67, R78: Bank Open, Bank Data, Bank Verify and Bank Erase, in the states that accept them; in any other state
the request is refused with WRONG_STATE and changes neither bank. A declared size out of range is BAD_FIELD, and a Bank
Data without data or with too much BAD_LENGTH. R64: a payload of another length is BAD_LENGTH, and a bank field that names
no bank BAD_FIELD. -/
def Obligations.BankRequestsFollowTheState : Prop :=
  (∀ (s : State) (r : Request) (bank : BankId),
    (∀ size crc : Nat, takes s .bankOpen r → r.payload = bankByte bank :: (leBytes 4 size ++ leBytes 4 crc) →
      crc < 4294967296 → 64 ≤ size → size ≤ 65536 →
      (bankAt s bank).state = .empty ∨ (bankAt s bank).state = .loading ∨ (bankAt s bank).state = .loaded →
      exec .bankOpen s = .next (answerEntry r .ok [] .nothing (setBank bank { bankAt s bank with
        state := .loading, contents := [], declared := some { size := size, crc := BitVec.ofNat 32 crc } } s))) ∧
    (∀ (offset : Nat) (bytes : List Byte) (d : Declared), takes s .bankData r →
      r.payload = bankByte bank :: (leBytes 4 offset ++ bytes) → offset < 4294967296 → bytes ≠ [] → bytes.length ≤ 1016 →
      (bankAt s bank).state = .loading → (bankAt s bank).declared = some d →
      (offset ≠ (bankAt s bank).contents.length → exec .bankData s = .next
        (answerEntry r .outOfOrder (leBytes 4 (bankAt s bank).contents.length) .nothing s)) ∧
      (offset = (bankAt s bank).contents.length → d.size < offset + bytes.length → exec .bankData s = .next
        (answerEntry r .overrun (leBytes 4 (bankAt s bank).contents.length) .nothing s)) ∧
      (offset = (bankAt s bank).contents.length → offset + bytes.length ≤ d.size → exec .bankData s = .next
        (answerEntry r .ok (leBytes 4 (offset + bytes.length)) .nothing
          (setBank bank { bankAt s bank with contents := (bankAt s bank).contents ++ bytes } s)))) ∧
    (∀ d : Declared, takes s .bankVerify r → r.payload = [bankByte bank] → (bankAt s bank).state = .loading →
      (bankAt s bank).declared = some d →
      ((bankAt s bank).contents.length < d.size →
        exec .bankVerify s = .next (answerEntry r .size [] .nothing s)) ∧
      (d.size ≤ (bankAt s bank).contents.length →
        exec .bankVerify s = .next (deferEntry (.verify bank) (setBank bank { bankAt s bank with state := .verifying } s)))) ∧
    (takes s .bankErase r → r.payload = [bankByte bank] →
      ((bankAt s bank).state = .empty → exec .bankErase s = .next (answerEntry r .ok [] .nothing s)) ∧
      ((bankAt s bank).state = .loading ∨ (bankAt s bank).state = .loaded →
        exec .bankErase s = .next (answerEntry r .ok [] .nothing (setBank bank { bankAt s bank with
          state := .empty, contents := [], declared := none } s))))) ∧
  (∀ (s : State) (r : Request) (bank : BankId),
    (∀ size crc : Nat, takes s .bankOpen r → r.payload = bankByte bank :: (leBytes 4 size ++ leBytes 4 crc) →
      64 ≤ size → size ≤ 65536 →
      (bankAt s bank).state = .verifying ∨ (bankAt s bank).state = .active ∨ (bankAt s bank).state = .retiring →
      exec .bankOpen s = .next (answerEntry r .wrongState [] .nothing s)) ∧
    (∀ bytes : List Byte, takes s .bankData r → r.payload = bankByte bank :: bytes → 5 ≤ bytes.length →
      bytes.length ≤ 1020 → (bankAt s bank).state ≠ .loading →
      exec .bankData s = .next (answerEntry r .wrongState [] .nothing s)) ∧
    (takes s .bankVerify r → r.payload = [bankByte bank] → (bankAt s bank).state ≠ .loading →
      exec .bankVerify s = .next (answerEntry r .wrongState [] .nothing s)) ∧
    (∀ size crc : Nat, takes s .bankOpen r → r.payload = bankByte bank :: (leBytes 4 size ++ leBytes 4 crc) →
      size < 4294967296 → size < 64 ∨ 65536 < size →
      exec .bankOpen s = .next (answerEntry r .badField [] .nothing s)) ∧
    (takes s .bankData r → r.payload.length < 6 ∨ 1021 < r.payload.length →
      exec .bankData s = .next (answerEntry r .badLength [] .nothing s)) ∧
    (takes s .bankErase r → r.payload = [bankByte bank] →
      (bankAt s bank).state = .verifying ∨ (bankAt s bank).state = .active ∨ (bankAt s bank).state = .retiring →
      exec .bankErase s = .next (answerEntry r .wrongState [] .nothing s))) ∧
  (∀ (s : State) (r : Request),
    (takes s .bankOpen r → r.payload.length ≠ 9 → exec .bankOpen s = .next (answerEntry r .badLength [] .nothing s)) ∧
    (takes s .bankVerify r → r.payload.length ≠ 1 → exec .bankVerify s = .next (answerEntry r .badLength [] .nothing s)) ∧
    (takes s .bankErase r → r.payload.length ≠ 1 → exec .bankErase s = .next (answerEntry r .badLength [] .nothing s)) ∧
    ∀ (b : Byte) (rest : List Byte), r.payload = b :: rest → b ≠ 0 → b ≠ 1 →
      (takes s .bankOpen r → rest.length = 8 → exec .bankOpen s = .next (answerEntry r .badField [] .nothing s)) ∧
      (takes s .bankData r → 5 ≤ rest.length → rest.length ≤ 1020 →
        exec .bankData s = .next (answerEntry r .badField [] .nothing s)) ∧
      (takes s .bankVerify r → rest = [] → exec .bankVerify s = .next (answerEntry r .badField [] .nothing s)) ∧
      (takes s .bankErase r → rest = [] → exec .bankErase s = .next (answerEntry r .badField [] .nothing s)))

/-- R75: Bank Activate makes a LOADED or RETIRING bank ACTIVE with its count kept, and an ACTIVE other bank RETIRING
when slots use it, else LOADED; an ACTIVE bank is left as it is; in any other state it is WRONG_STATE. R64: a payload of
another length is BAD_LENGTH, a bank field that names no bank BAD_FIELD. R69: verification ends LOADED and OK when the CRC-32
and the structure agree; EMPTY with CRC_MISMATCH and the CRC computed, or with FORMAT, the detail code and the offset,
when they do not. -/
def Obligations.BankVerifiesAndActivates : Prop :=
  (∀ (s : State) (r : Request), takes s .bankActivate r →
    (r.payload.length ≠ 1 → exec .bankActivate s = .next (answerEntry r .badLength [] .nothing s)) ∧
    ∀ b : Byte, r.payload = [b] → b ≠ 0 → b ≠ 1 →
      exec .bankActivate s = .next (answerEntry r .badField [] .nothing s)) ∧
  (∀ (s : State) (r : Request) (bank : BankId), takes s .bankActivate r → r.payload = [bankByte bank] →
    ((bankAt s bank).state = .empty ∨ (bankAt s bank).state = .loading ∨ (bankAt s bank).state = .verifying →
      exec .bankActivate s = .next (answerEntry r .wrongState [] .nothing s)) ∧
    ((bankAt s bank).state = .active → exec .bankActivate s = .next (answerEntry r .ok [] .nothing s)) ∧
    ((bankAt s bank).state = .loaded ∨ (bankAt s bank).state = .retiring →
      exec .bankActivate s = .next (answerEntry r .ok [] .nothing
        (setBank (otherBank bank) (
            if (bankAt s (otherBank bank)).state = .active then
              { bankAt s (otherBank bank) with state :=
                if 0 < (bankAt s (otherBank bank)).refCount then .retiring else .loaded }
            else bankAt s (otherBank bank))
          (setBank bank { bankAt s bank with state := .active } s))))) ∧
  (∀ (s : State) (bank : BankId) (d : Declared), (bankAt s bank).state = .verifying → (bankAt s bank).declared = some d →
    (d.crc ≠ crc32 (bankAt s bank).contents → exec (.verificationComplete bank) s = .next
      (finishWork (.verify bank) .crcMismatch (leBytes 4 (crc32 (bankAt s bank).contents).toNat) (setBank bank
        { state := .empty, contents := [], declared := none, refCount := (bankAt s bank).refCount } s))) ∧
    (d.crc = crc32 (bankAt s bank).contents →
      (∀ img, walkImage (bankAt s bank).contents = .ok img → exec (.verificationComplete bank) s = .next
        (finishWork (.verify bank) .ok [] (setBank bank { bankAt s bank with state := .loaded } s))) ∧
      (∀ detail offset, walkImage (bankAt s bank).contents = .error (detail, offset) →
        exec (.verificationComplete bank) s = .next
          (finishWork (.verify bank) .format (detailByte detail :: leBytes 4 offset) (setBank bank
            { state := .empty, contents := [], declared := none, refCount := (bankAt s bank).refCount } s)))))

/-- R70 to R74, R193: the structural walk of the bytes of an image that keeps the rules reads that image back,
whatever its bounds, modes, frame counts and phase lists; and the walk passes no other bytes: those it reads an image from
are that image laid out, and the image keeps the rules. -/
def Obligations.ImageWalkReadsTheImage : Prop :=
  (∀ img : BankImage, imageSound img → walkImage (imageBytes img) = .ok img) ∧
  ∀ (bytes : List Byte) (img : BankImage), walkImage bytes = .ok img → imageSound img ∧ imageBytes img = bytes

/-- R30, R71: the band of a reading among strictly ascending bounds: the one whose bound the reading reaches and whose
successor's it does not; below the first bound there is none. -/
def Obligations.BandOfAReading : Prop :=
  ∀ (bounds : List Int) (t : Int), bounds.Pairwise (· < ·) →
    (∀ i, bandOfReading bounds t = some i ↔
      (∃ b, bounds[i]? = some b ∧ b ≤ t) ∧ ∀ b, bounds[i + 1]? = some b → t < b) ∧
    (bandOfReading bounds t = none ↔ ∀ b ∈ bounds, t < b)

/-! ### The panel drive port -/

/-- R49: the step that covers frame `k` gives its drive, and past the sum of the lengths the drive is NEUTRAL. R48,
R50: the panel drive port while a frame runs: NEUTRAL outside every DRIVING slot, and NEUTRAL where a DRIVING slot
skips a pixel whose Target equals its Shown value; any other pixel of the slot takes the phase list that its mode and band
have in the row of its Shown value, UNKNOWN after the 16 levels, and the column of its Target level, 16 columns a row or the
two of levels 0 and 15 (R193); with no frame running the port applies no drive. That a frame runs exactly
while the Frame Timer is RUNNING is the model's reading (notes/assumptions/20.md). -/
def Obligations.PanelDriveFollowsTheWaveform : Prop :=
  ((∀ (before after : List PhaseStep) (step : PhaseStep) (k : Nat), phaseSum before < k →
    k ≤ phaseSum before + step.frames → phaseDrive (before ++ step :: after) k = step.drive) ∧
  ∀ (steps : List PhaseStep) (k : Nat), phaseSum steps < k → phaseDrive steps k = .neutral) ∧
  (∀ (s : State) (x y : Nat),
    (s.frameTimer = .stopped → panelDrive s x y = none) ∧
    (∀ n, s.frameTimer = .running n →
      ((∀ (i : Fin 8) (u : Update), s.slots[i] = .driving u → rectContains u.rect.val x y = false) →
        panelDrive s x y = some .neutral) ∧
      ∀ (i : Fin 8) (u : Update) (old new : Pixel), SlotsApart s → s.slots[i] = .driving u →
        rectContains u.rect.val x y = true → planeAt s.shown x y = some old → planeAt s.target x y = some new →
        (u.skipUnchanged = true → new = old → panelDrive s x y = some .neutral) ∧
        ∀ (l : Level) (m : ModeRecord), (u.skipUnchanged = false ∨ new ≠ old) → new = .level l → slotMode s u = some m →
          panelDrive s x y = some (phaseDrive (transitionOf m u.band old l) u.index) ∧
          ∀ (d : BandData) (steps : List PhaseStep) (row : Nat), m.bands[u.band]? = some d →
            (old = .unknown ∧ row = 16 ∨ ∃ level : Level, old = .level level ∧ row = level.val) →
            (m.twoLevel = false ∧ d.table[row * 16 + l.val]? = some steps ∨
              m.twoLevel = true ∧ l = 0 ∧ d.table[row * 2]? = some steps ∨
              m.twoLevel = true ∧ l = 15 ∧ d.table[row * 2 + 1]? = some steps) →
            panelDrive s x y = some (phaseDrive steps u.index)))

/-! ### Temperature -/

/-- R84, R85, R89: a conversion sets the reading to the nearest degree, a half upward, limited to −40 to +85, and a
Temperature Report with source HOST to its value; the age is 0, and starts are evaluated when the reading was not
valid before. -/
def Obligations.ReadingsAreSet : Prop :=
  (∀ (s : State) (n : Int) (d : Nat), 0 < d → s.temp.converting = true →
    ∃ v : Int, (2 * d * (-40) ≤ 2 * n + d → 2 * n + d < 2 * d * 86 →
        2 * d * v ≤ 2 * n + d ∧ 2 * n + d < 2 * d * (v + 1)) ∧ -40 ≤ v ∧ v ≤ 85 ∧
      (2 * n + d < 2 * d * (-40) → v = -40) ∧ (2 * d * 86 ≤ 2 * n + d → v = 85) ∧
      exec (.conversionComplete { num := n, den := d }) s = .next
        (if readingValid s = true then
          { s with temp := { s.temp with converting := false, reading := some { value := v, age := 0 } } }
        else evaluate { s with temp := { s.temp with converting := false, reading := some { value := v, age := 0 } } })) ∧
  (∀ (s : State) (r : Request), takes s .temperatureReport r → r.payload.length ≠ 1 →
    exec .temperatureReport s = .next (answerEntry r .badLength [] .nothing s)) ∧
  ∀ (s : State) (r : Request) (b : Byte), takes s .temperatureReport r → r.payload = [b] →
    (b.toInt < -40 ∨ 85 < b.toInt → exec .temperatureReport s = .next (answerEntry r .badField [] .nothing s)) ∧
    (-40 ≤ b.toInt → b.toInt ≤ 85 →
      (s.params.tempSource = .fromSensor → exec .temperatureReport s = .next (answerEntry r .wrongState [] .nothing s)) ∧
      (s.params.tempSource = .fromHost → exec .temperatureReport s = .next
        (if readingValid s = true then answerEntry r .ok [] .nothing
            { s with temp := { s.temp with reading := some { value := b.toInt, age := 0 } } }
          else evaluate (answerEntry r .ok [] .nothing
            { s with temp := { s.temp with reading := some { value := b.toInt, age := 0 } } }))))

/-- R83: with source INTERNAL a conversion starts at its time and the next is set SAMPLE_PERIOD later; that this holds
in CONVERTING too, and that with source HOST the step changes nothing, are the model's choices (notes/assumptions/18.md,
1.md). R86, R87: the age rises by one and stops at 65,535; the rise from STALE_LIMIT offers the one Temp
Stale notice. READING_BECOMES_STALE is that rise by the model's reading
(notes/assumptions/6.md). -/
def Obligations.ConversionsStartAndReadingsAge : Prop :=
  (∀ s : State,
    (s.params.tempSource = .fromSensor → s.temp.nextStart ≠ none → exec .conversionStart s = .next { s with
      temp := { s.temp with converting := true, nextStart := some s.params.samplePeriod } }) ∧
    (s.params.tempSource = .fromHost → exec .conversionStart s = .next s)) ∧
  (∀ (s : State) (g : Reading), s.temp.reading = some g →
    (g.age ≠ s.params.staleLimit → exec .ageRise s = .next
      { s with temp := { s.temp with reading := some { g with age := min 65535 (g.age + 1) } } }) ∧
    (g.age = s.params.staleLimit → g.age < 65535 →
      exec .readingBecomesStale s = .next (offerNotice (.tempStale g.value (g.age + 1))
        { s with temp := { s.temp with reading := some { g with age := g.age + 1 } } }) ∧
      exec .ageRise s = exec .readingBecomesStale s))

/-! ### Rails -/

/-- R97, R98: power-good in a rise starts the settle timer with SETTLE as at the entry into RISING; the settle expiry
takes the rails to ON, with the first boundary at once when demand is present, and on to FALLING or HOLDING when it is
not; power-good elsewhere moves nothing. R100, R102: the hold expiry takes the rails to FALLING with FALL_TIME as it
stands; the fall expiry takes them to OFF, and on to RISING when demand is present, by R96: WAITING, or SETTLING with
power-good asserted, or with SETTLE 0 at once to ON with the first boundary (R98). -/
def Obligations.RailsRiseAndFall : Prop :=
  ((∀ s : State, s.phase = .running → s.powerGood = false → s.rails.state = .rising → s.rails.risePhase = some .waiting →
    exec .powerGoodAssert s = .next { s with
      powerGood := true, rails := { s.rails with risePhase := some .settling, settleTimer := s.rails.settleValue } }) ∧
  (∀ s : State, s.rails.state ≠ .rising → exec .powerGoodAssert s = .next { s with powerGood := true }) ∧
  ∀ s : State, s.rails.state = .rising → s.rails.risePhase = some .settling →
    (demand s = true → exec .settleTimerExpiry s = .next
      (deliverBoundary { s with rails := { Rails.reset with state := .on, fastFall := s.rails.fastFall } })) ∧
    (demand s = false → (s.rails.fastFall = true ∨ s.params.holdTime = 0) → exec .settleTimerExpiry s = .next { s with
      frameTimer := .stopped, rails := { Rails.reset with state := .falling, fallTimer := some s.params.fallTime } }) ∧
    (demand s = false → s.rails.fastFall = false → 0 < s.params.holdTime → exec .settleTimerExpiry s = .next { s with
      frameTimer := .stopped, rails := { Rails.reset with state := .holding, holdTimer := some s.params.holdTime } })) ∧
  ((∀ s : State, s.rails.state = .holding → exec .holdTimerExpiry s = .next { s with rails :=
    { Rails.reset with state := .falling, fallTimer := some s.params.fallTime } }) ∧
  ∀ s : State, s.rails.state = .falling →
    (demand s = false → exec .fallTimerExpiry s = .next { s with rails := { s.rails with state := .off, fallTimer := none } }) ∧
    (demand s = true → s.powerGood = false → exec .fallTimerExpiry s = .next { s with rails :=
      { Rails.reset with state := .rising, risePhase := some .waiting, riseTimer := .running s.params.riseLimit,
                         settleValue := some s.params.settle } }) ∧
    (demand s = true → s.powerGood = true → 0 < s.params.settle → exec .fallTimerExpiry s = .next { s with rails :=
      { Rails.reset with state := .rising, risePhase := some .settling, riseTimer := .running s.params.riseLimit,
                         settleValue := some s.params.settle, settleTimer := some s.params.settle } }) ∧
    (demand s = true → s.powerGood = true → s.params.settle = 0 → exec .fallTimerExpiry s = .next
      (deliverBoundary { s with rails := { Rails.reset with state := .on } })))

/-- R97, R101, R103: the faults of the rails: the rise timer in WAITING, power-good lost in SETTLING after the rise
timer expired, power-good lost in ON or HOLDING. Each enters FAULT with its cause, stops the Frame Timer, offers Rail
Fault first, aborts every active slot (R52, R53, R63, R77), and in HALTING ends the halt and answers every deferred Halt. Within the limit, or in SETTLING, the rise goes on. R106: Clear Fault takes FAULT
to OFF, is answered OK and evaluates starts; in any other rail state it changes nothing; a payload is BAD_LENGTH. -/
def Obligations.RailFaultsAbortTheDrive : Prop :=
  ((∀ (s : State) (ms : Nat), s.rails.state = .rising → s.rails.risePhase = some .settling → s.rails.riseTimer = .running ms →
    exec .riseTimerExpiry s = .next { s with rails := { s.rails with riseTimer := .expired } }) ∧
  (∀ (s : State) (ms : Nat), s.rails.state = .rising → s.rails.risePhase = some .waiting → s.rails.riseTimer = .running ms →
    exec .riseTimerExpiry s = .next (enterFault .railTimeout s)) ∧
  (∀ (s : State) (ms : Nat), s.phase = .running → s.powerGood = true → s.rails.state = .rising →
    s.rails.risePhase = some .settling → s.rails.riseTimer = .running ms →
    exec .powerGoodLoss s = .next { s with
      powerGood := false, rails := { s.rails with risePhase := some .waiting, settleTimer := none } }) ∧
  (∀ s : State, s.phase = .running → s.powerGood = true → s.rails.state = .rising →
    s.rails.risePhase = some .settling → s.rails.riseTimer = .expired →
    exec .powerGoodLoss s = .next (enterFault .railTimeout { s with powerGood := false })) ∧
  (∀ s : State, s.phase = .running → s.powerGood = true → s.rails.state = .on ∨ s.rails.state = .holding →
    exec .powerGoodLoss s = .next (enterFault .powerLost { s with powerGood := false })) ∧
  (∀ s : State, s.rails.state = .off ∨ s.rails.state = .falling ∨ s.rails.state = .fault →
    exec .powerGoodLoss s = .next { s with powerGood := false }) ∧
  ∀ (s : State) (cause : FaultCause), ∃ rest : List Notice,
    (enterFault cause s).rails = { Rails.reset with state := .fault, faultCause := some cause } ∧
    (enterFault cause s).frameTimer = .stopped ∧ (∀ i : Fin 8, (enterFault cause s).slots[i] = .free) ∧
    (enterFault cause s).notices = rest.foldl offerTo (offerTo s.notices (.railFault cause s.rails.state)) ∧
    rest.filterMap endedFields =
      s.slots.toList.filterMap (fun x => (slotUpdate x).map fun u => (u.id, EndResult.railFault, framesDriven x, u.changed)) ∧
    (enterFault cause s).queue = s.queue ∧ (s.halt = .halting → (enterFault cause s).halt = .halted) ∧
    (s.halt = .halting → (enterFault cause s).link = (finishWork .halt .ok [] s).link) ∧
    (s.halt ≠ .halting → (enterFault cause s).halt = s.halt ∧ (enterFault cause s).link = s.link) ∧
    SlotsAborted .railFault (offerTo s.notices (.railFault cause s.rails.state)) s (enterFault cause s)) ∧
  (∀ (s : State) (r : Request), takes s .clearFault r →
    (r.payload ≠ [] → exec .clearFault s = .next (answerEntry r .badLength [] .nothing s)) ∧
    (r.payload = [] →
      (s.rails.state = .fault → exec .clearFault s = .next (evaluate (answerEntry r .ok [] .nothing
        { s with rails := { s.rails with state := .off, faultCause := none } }))) ∧
      (s.rails.state ≠ .fault → exec .clearFault s = .next (answerEntry r .ok [] .nothing s))))

/-! ### Loading and reading pixels -/

/-- R115, R117, R118, R121, R122: Load Open opens a session, or replaces the open one, whose counts it reports and
whose fences it clears before starts are evaluated; Load Close reports the counts, clears the fences and evaluates
starts; with no session it is NO_LOAD. The checks of both run in their order. -/
def Obligations.LoadSessionsOpenAndClose : Prop :=
  (∀ (s : State) (r : Request) (rect : Rect) (order : Fin 8), takes s .loadOpen r →
    r.payload = rectBytes rect ++ [byteOf order.val] → rect.col < 65536 → rect.row < 65536 → rect.width < 65536 →
    rect.height < 65536 →
    (rectValid rect = false → exec .loadOpen s = .next (answerEntry r .badRect [] .nothing s)) ∧
    ∀ window : Region, window.val = rect →
      (s.load = none → exec .loadOpen s = .next (answerEntry r .ok [0, 0, 0, 0, 0, 0, 0, 0, 0] .nothing
        { s with load := some { window := window, order := order, written := 0, discarded := 0 } })) ∧
      ∀ old, s.load = some old → exec .loadOpen s = .next (evaluate
        (answerEntry r .ok (1 :: (leBytes 4 old.written ++ leBytes 4 old.discarded)) .nothing { s with
          queue := s.queue.map fun x => { x with loadFence := false }
          load := some { window := window, order := order, written := 0, discarded := 0 } }))) ∧
  (∀ (s : State) (r : Request),
    (takes s .loadOpen r → r.payload.length ≠ 9 → exec .loadOpen s = .next (answerEntry r .badLength [] .nothing s)) ∧
    (∀ (rect : Rect) (b : Byte), takes s .loadOpen r → r.payload = rectBytes rect ++ [b] → 7 < b.toNat →
      exec .loadOpen s = .next (answerEntry r .badField [] .nothing s)) ∧
    (takes s .loadClose r → r.payload ≠ [] → exec .loadClose s = .next (answerEntry r .badLength [] .nothing s))) ∧
  ∀ (s : State) (r : Request), takes s .loadClose r → r.payload = [] →
    (s.load = none → exec .loadClose s = .next (answerEntry r .noLoad [] .nothing s)) ∧
    ∀ l, s.load = some l → exec .loadClose s = .next (evaluate (answerEntry r .ok
      (leBytes 4 l.written ++ leBytes 4 (rectArea l.window.val - l.written) ++ leBytes 4 l.discarded) .nothing { s with
        load := none
        queue := s.queue.map fun x => { x with loadFence := false } }))

/-- R119, R120: Load Data places its levels at the successive cursor positions up to the end of the window and drops
the rest; the counts rise by what was placed and dropped; every other pixel of Pending, and everything else, is
unchanged. Its checks run in their order, the last NO_LOAD. -/
def Obligations.LoadDataPlacesPixels : Prop :=
  (∀ (s : State) (r : Request), takes s .loadData r →
    (r.payload.length < 2 → exec .loadData s = .next (answerEntry r .badLength [] .nothing s)) ∧
    ∀ (count : Nat) (data : List Byte), r.payload = leBytes 2 count ++ data → count < 65536 →
      (data.length ≠ (count + 1) / 2 → exec .loadData s = .next (answerEntry r .badLength [] .nothing s)) ∧
      (data.length = (count + 1) / 2 → count = 0 ∨ 2032 < count →
        exec .loadData s = .next (answerEntry r .badField [] .nothing s)) ∧
      (data.length = (count + 1) / 2 → 1 ≤ count → count ≤ 2032 → s.load = none →
        exec .loadData s = .next (answerEntry r .noLoad [] .nothing s))) ∧
  ∀ (s : State) (r : Request) (l : LoadSession) (levels : List Level) (data : List Byte), PlanesLaw s → LoadLaw s →
    takes s .loadData r → s.load = some l → r.payload = leBytes 2 levels.length ++ data → 1 ≤ levels.length →
    levels.length ≤ 2032 → data.length = (levels.length + 1) / 2 → (data.flatMap unpackByte).take levels.length = levels →
    ∃ placed p, placed = min levels.length (rectArea l.window.val - l.written) ∧
      exec .loadData s = .next (answerEntry r .ok
        (leBytes 2 placed ++ leBytes 2 (levels.length - placed) ++
          flagByte (decide (l.written + placed = rectArea l.window.val)) :: leBytes 4 (l.written + placed)) .nothing
        { s with
          pendingPlane := p
          load := some { l with
            written := l.written + placed
            discarded := min 4294967295 (l.discarded + (levels.length - placed)) } }) ∧
      (∀ k, k < placed → planeAt p (cursorPixel l.window.val l.order (l.written + k)).1
        (cursorPixel l.window.val l.order (l.written + k)).2 = levels[k]?) ∧
      ∀ x y, (∀ k, k < placed → cursorPixel l.window.val l.order (l.written + k) ≠ (x, y)) →
        planeAt p x y = planeAt s.pendingPlane x y

/-- R114: where each of the eight orders begins, how it goes on along its line and from line to line; and under every
order the cursor visits every pixel of the window exactly once as the written count runs from 0 to the area minus one.
-/
def Obligations.CursorVisitsEveryPixelOnce : Prop :=
  (∀ (window : Region) (along line : Nat),
    (along < window.val.width → line < window.val.height →
      cursorPixel window.val 0 (line * window.val.width + along) = (window.val.col + along, window.val.row + line) ∧
      cursorPixel window.val 1 (line * window.val.width + along) =
        (window.val.col + window.val.width - 1 - along, window.val.row + line) ∧
      cursorPixel window.val 2 (line * window.val.width + along) =
        (window.val.col + along, window.val.row + window.val.height - 1 - line) ∧
      cursorPixel window.val 3 (line * window.val.width + along) =
        (window.val.col + window.val.width - 1 - along, window.val.row + window.val.height - 1 - line)) ∧
    (along < window.val.height → line < window.val.width →
      cursorPixel window.val 4 (line * window.val.height + along) = (window.val.col + line, window.val.row + along) ∧
      cursorPixel window.val 5 (line * window.val.height + along) =
        (window.val.col + window.val.width - 1 - line, window.val.row + along) ∧
      cursorPixel window.val 6 (line * window.val.height + along) =
        (window.val.col + line, window.val.row + window.val.height - 1 - along) ∧
      cursorPixel window.val 7 (line * window.val.height + along) =
        (window.val.col + window.val.width - 1 - line, window.val.row + window.val.height - 1 - along))) ∧
  ∀ (window : Region) (order : Fin 8),
    (∀ k, k < rectArea window.val →
      rectContains window.val (cursorPixel window.val order k).1 (cursorPixel window.val order k).2 = true) ∧
    (∀ j k, j < rectArea window.val → k < rectArea window.val →
      cursorPixel window.val order j = cursorPixel window.val order k → j = k) ∧
    ∀ x y, rectContains window.val x y = true →
      ∃ k, k < rectArea window.val ∧ cursorPixel window.val order k = (x, y)

/-- R123, R124: Read Pixels answers with the plane, the rectangle and the values in row-major order, one byte a pixel
for Shown and packed in pairs for Pending (an odd last level in bits 7 to 4 of a byte whose low four bits are 0), and
changes nothing. Its checks run in their order; an invalid rectangle or an area above 1,000 is BAD_RECT. -/
def Obligations.ReadPixelsReturnsThePlane : Prop :=
  (∀ (s : State) (r : Request), takes s .readPixels r →
    (r.payload.length ≠ 9 → exec .readPixels s = .next (answerEntry r .badLength [] .nothing s)) ∧
    (∀ (b : Byte) (rest : List Byte), r.payload = b :: rest → rest.length = 8 → 1 < b.toNat →
      exec .readPixels s = .next (answerEntry r .badField [] .nothing s)) ∧
    ∀ (rect : Rect) (ofShown : Bool), r.payload = flagByte ofShown :: rectBytes rect → rect.col < 65536 →
      rect.row < 65536 → rect.width < 65536 → rect.height < 65536 → rectValid rect = false →
      exec .readPixels s = .next (answerEntry r .badRect [] .nothing s)) ∧
  ∀ (s : State) (r : Request) (rect : Region) (ofShown : Bool), PlanesLaw s → takes s .readPixels r →
    r.payload = flagByte ofShown :: rectBytes rect.val →
    (1000 < rectArea rect.val → exec .readPixels s = .next (answerEntry r .badRect [] .nothing s)) ∧
    (rectArea rect.val ≤ 1000 → ∃ values, exec .readPixels s = .next
        (answerEntry r .ok (flagByte ofShown :: (rectBytes rect.val ++ values)) .nothing s) ∧
      (ofShown = true → values.length = rectArea rect.val ∧ ∀ k, k < rectArea rect.val →
        values[k]? = (planeAt s.shown (rowMajorPixel rect.val k).1 (rowMajorPixel rect.val k).2).map pixelByte) ∧
      (ofShown = false → values.length = (rectArea rect.val + 1) / 2 ∧
        (∀ k, k < rectArea rect.val → (values.flatMap unpackByte)[k]? =
          planeAt s.pendingPlane (rowMajorPixel rect.val k).1 (rowMajorPixel rect.val k).2) ∧
        ∀ k, rectArea rect.val ≤ k → k < 2 * values.length → (values.flatMap unpackByte)[k]? = some 0))

/-! ### Raster jobs -/

/-- R132 to R134: Fill and Copy: refused with LOAD_OPEN while a session is OPEN and WRONG_STATE with the counter
EXHAUSTED; else the job takes the counter's number, joins the tail, is RUNNING when the queue was empty, and the
request is DEFERRED on it. The checks before these run in their order. -/
def Obligations.JobsAreAccepted : Prop :=
  (∀ (s : State) (r : Request) (rect : Rect), rect.col < 65536 → rect.row < 65536 → rect.width < 65536 →
    rect.height < 65536 →
    (takes s .fill r →
      (r.payload.length ≠ 9 → exec .fill s = .next (answerEntry r .badLength [] .nothing s)) ∧
      ∀ b : Byte, r.payload = rectBytes rect ++ [b] →
        (15 < b.toNat → exec .fill s = .next (answerEntry r .badField [] .nothing s)) ∧
        (b.toNat ≤ 15 → rectValid rect = false → exec .fill s = .next (answerEntry r .badRect [] .nothing s))) ∧
    (takes s .copy r →
      (r.payload.length ≠ 12 → exec .copy s = .next (answerEntry r .badLength [] .nothing s)) ∧
      ∀ col row : Nat, col < 65536 → row < 65536 → r.payload = rectBytes rect ++ leBytes 2 col ++ leBytes 2 row →
        rectValid rect = false ∨ rectValid { rect with col := col, row := row } = false →
        exec .copy s = .next (answerEntry r .badRect [] .nothing s))) ∧
  ∀ (s : State) (r : Request) (rect source : Region) (level : Level),
    ((takes s .fill r ∧ r.payload = rectBytes rect.val ++ [byteOf level.val] →
      (s.load ≠ none → exec .fill s = .next (answerEntry r .loadOpen [] .nothing s)) ∧
      (s.load = none → s.raster.counter = .exhausted → exec .fill s = .next (answerEntry r .wrongState [] .nothing s)) ∧
      ∀ n, s.load = none → s.raster.counter = .next n → exec .fill s = .next (deferEntry (.job n) { s with raster := {
        mark := s.raster.mark
        counter := if 4294967295 ≤ n then .exhausted else .next (n + 1)
        jobs := s.raster.jobs ++ [{
          number := n
          kind := .fill rect level
          progress := if s.raster.jobs = [] then .running 0 (planeOf rect.val.width rect.val.height level)
            else .queued }] } }))) ∧
    ((takes s .copy r ∧ rect.val.width = source.val.width ∧ rect.val.height = source.val.height ∧
        r.payload = rectBytes source.val ++ leBytes 2 rect.val.col ++ leBytes 2 rect.val.row →
      (s.load ≠ none → exec .copy s = .next (answerEntry r .loadOpen [] .nothing s)) ∧
      (s.load = none → s.raster.counter = .exhausted → exec .copy s = .next (answerEntry r .wrongState [] .nothing s)) ∧
      ∀ n, s.load = none → s.raster.counter = .next n → exec .copy s = .next (deferEntry (.job n) { s with raster := {
        mark := s.raster.mark
        counter := if 4294967295 ≤ n then .exhausted else .next (n + 1)
        jobs := s.raster.jobs ++ [{
          number := n
          kind := .copy source rect
          progress := if s.raster.jobs = [] then .running 0 (planeCrop source.val s.pendingPlane) else .queued }] } })))

/-- R136, R137: the RUNNING job writes its next destination pixel, in row-major order, with the level of its final
image, and no other pixel; a copy's image is what its source held when the job became RUNNING. -/
def Obligations.JobsWriteInRowMajorOrder : Prop :=
  (∀ (s : State) (j : Job) (rest : List Job) (k : Nat) (image : Plane Level), PlanesLaw s → s.raster.jobs = j :: rest →
    j.progress = .running k image → k < rectArea (jobTarget j.kind).val →
    ∃ t, exec .jobWritesPixel s = .next t ∧
      t = { s with
        pendingPlane := t.pendingPlane
        raster := { s.raster with jobs := { j with progress := .running (k + 1) image } :: rest } } ∧
      planeAt t.pendingPlane (rowMajorPixel (jobTarget j.kind).val k).1 (rowMajorPixel (jobTarget j.kind).val k).2 =
        planeAt image (k % (jobTarget j.kind).val.width) (k / (jobTarget j.kind).val.width) ∧
      ∀ x y, (x, y) ≠ rowMajorPixel (jobTarget j.kind).val k → planeAt t.pendingPlane x y = planeAt s.pendingPlane x y) ∧
  ∀ (p : Plane Level) (source : Region) (i j : Nat), planeWf 800 600 p = true → i < source.val.width →
    j < source.val.height → planeAt (planeCrop source.val p) i j = planeAt p (source.val.col + i) (source.val.row + j)

/-- R138: the completion of the RUNNING job: its whole destination holds the final image and no other pixel changes,
the mark takes its number, it leaves, the oldest remaining job becomes RUNNING at 0, its request is answered with the
number, and starts are evaluated. That this holds at every written count is the model's choice
(notes/assumptions/7.md). -/
def Obligations.JobCompletionIsOneEvent : Prop :=
  ∀ (s : State) (j : Job) (rest : List Job) (k : Nat) (image : Plane Level), PlanesLaw s → s.raster.jobs = j :: rest →
    j.progress = .running k image →
    ∃ p jobs, exec .jobCompletion s = .next (evaluate (finishWork (.job j.number) .ok (leBytes 4 j.number)
        { s with pendingPlane := p, raster := { s.raster with jobs := jobs, mark := j.number } })) ∧
      (∀ x y, rectContains (jobTarget j.kind).val x y = true → planeAt p x y =
        planeAt image (x - (jobTarget j.kind).val.col) (y - (jobTarget j.kind).val.row)) ∧
      (∀ x y, rectContains (jobTarget j.kind).val x y = false → planeAt p x y = planeAt s.pendingPlane x y) ∧
      (rest = [] → jobs = []) ∧
      ∀ q later, rest = q :: later → jobs = { q with progress := .running 0 (jobImage p q.kind) } :: later

/-! ### The laws every step keeps -/

/-- Every law holds at reset. -/
def Obligations.LawsHoldAtReset : Prop :=
  PlanesLaw State.reset ∧ SlotsApart State.reset ∧ AgreementLaw State.reset ∧ QueueLaw State.reset ∧
    BankLaw State.reset ∧ BankContentsLaw State.reset ∧ SlotWaveformLaw State.reset ∧ RailsLaw State.reset ∧
    RasterLaw State.reset ∧ LoadLaw State.reset ∧ TemperatureLaw State.reset ∧ ParamsLaw State.reset ∧
    NoticeLaw State.reset ∧ LinkLaw State.reset ∧ ClosedLaw State.reset ∧ CountersLaw State.reset ∧
    receiverSound State.reset.link.receiver ∧ ResetLaw State.reset

/-- Every step keeps the planes 800 by 600 (chapter 1.2) and the images of the jobs sound (R130). The canonical form and the
images are the model's choice of data (notes/assumptions/9.md, 19.md). -/
def Obligations.StepKeepsThePlanes : Prop :=
  ∀ s t : State, PlanesLaw s → step s = .next t → PlanesLaw t

/-- R9, R40: every step keeps the active slots apart and Target equal to Shown outside them. -/
def Obligations.StepKeepsTheAgreement : Prop :=
  ∀ s t : State, PlanesLaw s → SlotsApart s → AgreementLaw s → step s = .next t → SlotsApart t ∧ AgreementLaw t

/-- R21, R22, R24: every step keeps the law of the Update Queue and its ids. -/
def Obligations.StepKeepsTheQueueLaw : Prop :=
  ∀ s t : State, QueueLaw s → step s = .next t → QueueLaw t

/-- R63, R79: every step keeps the law of the banks, and every active slot's mode record in its bank. -/
def Obligations.StepKeepsTheBankLaw : Prop :=
  ∀ s t : State, BankLaw s → SlotWaveformLaw s → step s = .next t → BankLaw t ∧ SlotWaveformLaw t

/-- R62: every step keeps what each bank's state says of its contents. -/
def Obligations.StepKeepsTheBankContents : Prop :=
  ∀ s t : State, BankContentsLaw s → step s = .next t → BankContentsLaw t

/-- R40, R93, R94, R107: every step keeps rails, frames, demand and halt state together. -/
def Obligations.StepKeepsTheRailsLaw : Prop :=
  ∀ s t : State, RailsLaw s → step s = .next t → RailsLaw t

/-- R113, R116, R130: every step keeps the law of the Raster Unit and the Pixel Loader. -/
def Obligations.StepKeepsTheRasterLaw : Prop :=
  ∀ s t : State, RasterLaw s → LoadLaw s → step s = .next t → RasterLaw t ∧ LoadLaw t

/-- R82, R144, R176: every step keeps the parameters and the line rates in their ranges, and, outside reset, the
temperature's own law. R184, R185: every step keeps the part in its pin-reset values while the reset input is
asserted; that no next conversion start stands then is the model's choice (notes/assumptions/24.md). -/
def Obligations.StepKeepsParametersAndReset : Prop :=
  (∀ s t : State, ParamsLaw s → ResetLaw s → TemperatureLaw s → step s = .next t → ParamsLaw t ∧ TemperatureLaw t) ∧
  (∀ s t : State, ResetLaw s → step s = .next t → ResetLaw t)

/-- R146, R149, R166: every step keeps the Notice Queue, the link counters and the receiver within their bounds. -/
def Obligations.StepKeepsTheBounds : Prop :=
  ∀ s t : State, NoticeLaw s → CountersLaw s → receiverSound s.link.receiver → step s = .next t →
    NoticeLaw t ∧ CountersLaw t ∧ receiverSound t.link.receiver

/-- R150, R154 to R156, R161: every step keeps the Request Table, the reply queue and the Reply Cache matched. -/
def Obligations.StepKeepsTheLinkLaw : Prop :=
  ∀ s t : State, LinkLaw s → ClosedLaw s → step s = .next t → LinkLaw t ∧ ClosedLaw t ∧ t.link.replies.length ≤ 24
end

