-- ==== Sys2Proof/Laws/Bytes.lean ====
section
/-! SUPPORT. Multi-byte fields, the codes of the fields, and the rectangle field read back from the bytes that carry it. -/

namespace Sys2Proof.Machine

@[simp] theorem leBytes_length (n v : Nat) : (leBytes n v).length = n := by
  induction n generalizing v with
  | zero => rfl
  | succ n ih => simp [leBytes, ih]

/-- Chapter 12: a field carries every number its bytes hold. -/
theorem leNat_leBytes (n v : Nat) (h : v < 256 ^ n) : leNat (leBytes n v) = v := by
  induction n generalizing v with
  | zero => simp [leBytes, leNat] at *; omega
  | succ n ih =>
    have h1 : v / 256 < 256 ^ n := by rw [Nat.div_lt_iff_lt_mul (by decide)]; rwa [Nat.pow_succ] at h
    simp only [leBytes, leNat, ih _ h1, BitVec.toNat_ofNat]
    omega

theorem leNat_lt (bytes : List Byte) : leNat bytes < 256 ^ bytes.length := by
  induction bytes with
  | nil => simp [leNat]
  | cons b t ih => have := b.isLt; simp only [leNat, List.length_cons, Nat.pow_succ]; omega

/-- The field after a prefix of its offset's length. -/
theorem fieldNat_append (pre post : List Byte) (n v : Nat) (h : v < 256 ^ n) :
    fieldNat (pre ++ leBytes n v ++ post) pre.length n = v := by
  unfold fieldNat
  have h1 : (pre ++ leBytes n v ++ post).drop pre.length = leBytes n v ++ post := by simp
  have h2 : (leBytes n v ++ post).take n = leBytes n v := by
    rw [List.take_append_of_le_length (by simp)]; simp [List.take_of_length_le]
  rw [h1, h2, leNat_leBytes n v h]

/-- R189: the rectangle a rectangle field carries. -/
theorem rectField_append (pre post : List Byte) (r : Rect) (h1 : r.col < 65536) (h2 : r.row < 65536)
    (h3 : r.width < 65536) (h4 : r.height < 65536) : rectField (pre ++ rectBytes r ++ post) pre.length = r := by
  have e1 := fieldNat_append pre (leBytes 2 r.row ++ leBytes 2 r.width ++ leBytes 2 r.height ++ post) 2 r.col h1
  have e2 := fieldNat_append (pre ++ leBytes 2 r.col) (leBytes 2 r.width ++ leBytes 2 r.height ++ post) 2 r.row h2
  have e3 := fieldNat_append (pre ++ leBytes 2 r.col ++ leBytes 2 r.row) (leBytes 2 r.height ++ post) 2 r.width h3
  have e4 := fieldNat_append (pre ++ leBytes 2 r.col ++ leBytes 2 r.row ++ leBytes 2 r.width) post 2 r.height h4
  simp only [List.length_append, leBytes_length, List.append_assoc] at e1 e2 e3 e4
  simp only [rectField, rectBytes, List.append_assoc]
  rw [e1, e2]
  have l3 : pre.length + 4 = pre.length + (2 + 2) := rfl
  have l4 : pre.length + 6 = pre.length + (2 + (2 + 2)) := rfl
  rw [l3, l4, e3, e4]

/-- R2: the sides and corners of a region fit their fields. -/
theorem rectField_region (pre post : List Byte) (r : Region) : rectField (pre ++ rectBytes r.val ++ post) pre.length = r.val := by
  have h := r.property
  simp [rectValid] at h
  exact rectField_append pre post r.val (by omega) (by omega) (by omega) (by omega)

@[simp] theorem rectBytes_length (r : Rect) : (rectBytes r).length = 8 := by simp [rectBytes]

/-- R2: a valid rectangle is accepted as itself. -/
@[simp] theorem regionOf_val (r : Region) : regionOf r.val = some r := by
  unfold regionOf; simp [r.property]

@[simp] theorem flagOf_flagByte (b : Bool) : flagOf (flagByte b) = some b := by cases b <;> rfl

@[simp] theorem bankOf_bankByte (bank : BankId) : bankOf (bankByte bank) = some bank := by cases bank <;> rfl

@[simp] theorem policyOf_policyByte (p : Policy) : policyOf (policyByte p) = some p := by cases p <;> rfl

@[simp] theorem planeFieldOf_flagByte (b : Bool) : planeFieldOf (flagByte b) = some b := by cases b <;> rfl

@[simp] theorem byteOf_toNat (n : Nat) (h : n < 256) : (byteOf n).toNat = n := by
  simp [byteOf, Nat.mod_eq_of_lt h]

@[simp] theorem levelOf_byteOf (l : Level) : levelOf (byteOf l.val) = some l := by
  have h := l.isLt
  unfold levelOf
  simp [byteOf_toNat l.val (by omega)]

@[simp] theorem orderOf_byteOf (o : Fin 8) : orderOf (byteOf o.val) = some o := by
  have h := o.isLt
  unfold orderOf
  simp [byteOf_toNat o.val (by omega)]

@[simp] theorem paramOf_paramByte (q : ParamId) : paramOf (paramByte q) = some q := by cases q <;> rfl

@[simp] theorem requestCodeOf_requestCodeByte (c : RequestCode) : requestCodeOf (requestCodeByte c) = some c := by
  cases c <;> rfl

end Sys2Proof.Machine
end

