-- ==== Sys2Proof/Laws/State.lean ====
section
/-! SUPPORT. For each operation that is one record update, what every field of the state is after it. -/

namespace Sys2Proof.Machine

/-- R158: the reply that answers an entry. -/
def entryReply (r : Request) (st : Status) (fields : List Byte) (effect : ReplyEffect) : QueuedReply where
  reply := { seq := r.seq, code := r.code, payload := statusPayload st fields }
  origin := .entry
  effect := effect

/-! ### offerNotice: R168 -/

@[simp] theorem offerNotice_pending (n : Notice) (s : State) : (offerNotice n s).pending = s.pending := rfl
@[simp] theorem offerNotice_phase (n : Notice) (s : State) : (offerNotice n s).phase = s.phase := rfl
@[simp] theorem offerNotice_powerGood (n : Notice) (s : State) : (offerNotice n s).powerGood = s.powerGood := rfl
@[simp] theorem offerNotice_startUps (n : Notice) (s : State) : (offerNotice n s).startUps = s.startUps := rfl
@[simp] theorem offerNotice_params (n : Notice) (s : State) : (offerNotice n s).params = s.params := rfl
@[simp] theorem offerNotice_pendingPlane (n : Notice) (s : State) : (offerNotice n s).pendingPlane = s.pendingPlane := rfl
@[simp] theorem offerNotice_target (n : Notice) (s : State) : (offerNotice n s).target = s.target := rfl
@[simp] theorem offerNotice_shown (n : Notice) (s : State) : (offerNotice n s).shown = s.shown := rfl
@[simp] theorem offerNotice_queue (n : Notice) (s : State) : (offerNotice n s).queue = s.queue := rfl
@[simp] theorem offerNotice_idCounter (n : Notice) (s : State) : (offerNotice n s).idCounter = s.idCounter := rfl
@[simp] theorem offerNotice_slots (n : Notice) (s : State) : (offerNotice n s).slots = s.slots := rfl
@[simp] theorem offerNotice_halt (n : Notice) (s : State) : (offerNotice n s).halt = s.halt := rfl
@[simp] theorem offerNotice_bankA (n : Notice) (s : State) : (offerNotice n s).bankA = s.bankA := rfl
@[simp] theorem offerNotice_bankB (n : Notice) (s : State) : (offerNotice n s).bankB = s.bankB := rfl
@[simp] theorem offerNotice_temp (n : Notice) (s : State) : (offerNotice n s).temp = s.temp := rfl
@[simp] theorem offerNotice_rails (n : Notice) (s : State) : (offerNotice n s).rails = s.rails := rfl
@[simp] theorem offerNotice_frameTimer (n : Notice) (s : State) : (offerNotice n s).frameTimer = s.frameTimer := rfl
@[simp] theorem offerNotice_load (n : Notice) (s : State) : (offerNotice n s).load = s.load := rfl
@[simp] theorem offerNotice_raster (n : Notice) (s : State) : (offerNotice n s).raster = s.raster := rfl
@[simp] theorem offerNotice_notices (n : Notice) (s : State) : (offerNotice n s).notices = offerTo s.notices n := rfl
@[simp] theorem offerNotice_link (n : Notice) (s : State) : (offerNotice n s).link = s.link := rfl

/-! ### queueReply: R161 -/

@[simp] theorem queueReply_pending (q : QueuedReply) (s : State) : (queueReply q s).pending = s.pending := rfl
@[simp] theorem queueReply_phase (q : QueuedReply) (s : State) : (queueReply q s).phase = s.phase := rfl
@[simp] theorem queueReply_powerGood (q : QueuedReply) (s : State) : (queueReply q s).powerGood = s.powerGood := rfl
@[simp] theorem queueReply_startUps (q : QueuedReply) (s : State) : (queueReply q s).startUps = s.startUps := rfl
@[simp] theorem queueReply_params (q : QueuedReply) (s : State) : (queueReply q s).params = s.params := rfl
@[simp] theorem queueReply_pendingPlane (q : QueuedReply) (s : State) : (queueReply q s).pendingPlane = s.pendingPlane := rfl
@[simp] theorem queueReply_target (q : QueuedReply) (s : State) : (queueReply q s).target = s.target := rfl
@[simp] theorem queueReply_shown (q : QueuedReply) (s : State) : (queueReply q s).shown = s.shown := rfl
@[simp] theorem queueReply_queue (q : QueuedReply) (s : State) : (queueReply q s).queue = s.queue := rfl
@[simp] theorem queueReply_idCounter (q : QueuedReply) (s : State) : (queueReply q s).idCounter = s.idCounter := rfl
@[simp] theorem queueReply_slots (q : QueuedReply) (s : State) : (queueReply q s).slots = s.slots := rfl
@[simp] theorem queueReply_halt (q : QueuedReply) (s : State) : (queueReply q s).halt = s.halt := rfl
@[simp] theorem queueReply_bankA (q : QueuedReply) (s : State) : (queueReply q s).bankA = s.bankA := rfl
@[simp] theorem queueReply_bankB (q : QueuedReply) (s : State) : (queueReply q s).bankB = s.bankB := rfl
@[simp] theorem queueReply_temp (q : QueuedReply) (s : State) : (queueReply q s).temp = s.temp := rfl
@[simp] theorem queueReply_rails (q : QueuedReply) (s : State) : (queueReply q s).rails = s.rails := rfl
@[simp] theorem queueReply_frameTimer (q : QueuedReply) (s : State) : (queueReply q s).frameTimer = s.frameTimer := rfl
@[simp] theorem queueReply_load (q : QueuedReply) (s : State) : (queueReply q s).load = s.load := rfl
@[simp] theorem queueReply_raster (q : QueuedReply) (s : State) : (queueReply q s).raster = s.raster := rfl
@[simp] theorem queueReply_notices (q : QueuedReply) (s : State) : (queueReply q s).notices = s.notices := rfl
@[simp] theorem queueReply_link_receiver (q : QueuedReply) (s : State) : (queueReply q s).link.receiver = s.link.receiver := rfl
@[simp] theorem queueReply_link_sessionOpen (q : QueuedReply) (s : State) : (queueReply q s).link.sessionOpen = s.link.sessionOpen := rfl
@[simp] theorem queueReply_link_resetCause (q : QueuedReply) (s : State) : (queueReply q s).link.resetCause = s.link.resetCause := rfl
@[simp] theorem queueReply_link_table (q : QueuedReply) (s : State) : (queueReply q s).link.table = s.link.table := rfl
@[simp] theorem queueReply_link_replies (q : QueuedReply) (s : State) : (queueReply q s).link.replies = s.link.replies ++ [q] := rfl
@[simp] theorem queueReply_link_cache (q : QueuedReply) (s : State) : (queueReply q s).link.cache = s.link.cache := rfl
@[simp] theorem queueReply_link_counters (q : QueuedReply) (s : State) : (queueReply q s).link.counters = s.link.counters := rfl
@[simp] theorem queueReply_link_transmitter (q : QueuedReply) (s : State) : (queueReply q s).link.transmitter = s.link.transmitter := rfl
@[simp] theorem queueReply_link_lineRate (q : QueuedReply) (s : State) : (queueReply q s).link.lineRate = s.link.lineRate := rfl
@[simp] theorem queueReply_link_restartTaken (q : QueuedReply) (s : State) : (queueReply q s).link.restartTaken = s.link.restartTaken := rfl
@[simp] theorem queueReply_link_straddling (q : QueuedReply) (s : State) : (queueReply q s).link.straddling = s.link.straddling := rfl

/-! ### setReceiver: R146 -/

@[simp] theorem setReceiver_pending (r : Receiver) (s : State) : (setReceiver r s).pending = s.pending := rfl
@[simp] theorem setReceiver_phase (r : Receiver) (s : State) : (setReceiver r s).phase = s.phase := rfl
@[simp] theorem setReceiver_powerGood (r : Receiver) (s : State) : (setReceiver r s).powerGood = s.powerGood := rfl
@[simp] theorem setReceiver_startUps (r : Receiver) (s : State) : (setReceiver r s).startUps = s.startUps := rfl
@[simp] theorem setReceiver_params (r : Receiver) (s : State) : (setReceiver r s).params = s.params := rfl
@[simp] theorem setReceiver_pendingPlane (r : Receiver) (s : State) : (setReceiver r s).pendingPlane = s.pendingPlane := rfl
@[simp] theorem setReceiver_target (r : Receiver) (s : State) : (setReceiver r s).target = s.target := rfl
@[simp] theorem setReceiver_shown (r : Receiver) (s : State) : (setReceiver r s).shown = s.shown := rfl
@[simp] theorem setReceiver_queue (r : Receiver) (s : State) : (setReceiver r s).queue = s.queue := rfl
@[simp] theorem setReceiver_idCounter (r : Receiver) (s : State) : (setReceiver r s).idCounter = s.idCounter := rfl
@[simp] theorem setReceiver_slots (r : Receiver) (s : State) : (setReceiver r s).slots = s.slots := rfl
@[simp] theorem setReceiver_halt (r : Receiver) (s : State) : (setReceiver r s).halt = s.halt := rfl
@[simp] theorem setReceiver_bankA (r : Receiver) (s : State) : (setReceiver r s).bankA = s.bankA := rfl
@[simp] theorem setReceiver_bankB (r : Receiver) (s : State) : (setReceiver r s).bankB = s.bankB := rfl
@[simp] theorem setReceiver_temp (r : Receiver) (s : State) : (setReceiver r s).temp = s.temp := rfl
@[simp] theorem setReceiver_rails (r : Receiver) (s : State) : (setReceiver r s).rails = s.rails := rfl
@[simp] theorem setReceiver_frameTimer (r : Receiver) (s : State) : (setReceiver r s).frameTimer = s.frameTimer := rfl
@[simp] theorem setReceiver_load (r : Receiver) (s : State) : (setReceiver r s).load = s.load := rfl
@[simp] theorem setReceiver_raster (r : Receiver) (s : State) : (setReceiver r s).raster = s.raster := rfl
@[simp] theorem setReceiver_notices (r : Receiver) (s : State) : (setReceiver r s).notices = s.notices := rfl
@[simp] theorem setReceiver_link_receiver (r : Receiver) (s : State) : (setReceiver r s).link.receiver = r := rfl
@[simp] theorem setReceiver_link_sessionOpen (r : Receiver) (s : State) : (setReceiver r s).link.sessionOpen = s.link.sessionOpen := rfl
@[simp] theorem setReceiver_link_resetCause (r : Receiver) (s : State) : (setReceiver r s).link.resetCause = s.link.resetCause := rfl
@[simp] theorem setReceiver_link_table (r : Receiver) (s : State) : (setReceiver r s).link.table = s.link.table := rfl
@[simp] theorem setReceiver_link_replies (r : Receiver) (s : State) : (setReceiver r s).link.replies = s.link.replies := rfl
@[simp] theorem setReceiver_link_cache (r : Receiver) (s : State) : (setReceiver r s).link.cache = s.link.cache := rfl
@[simp] theorem setReceiver_link_counters (r : Receiver) (s : State) : (setReceiver r s).link.counters = s.link.counters := rfl
@[simp] theorem setReceiver_link_transmitter (r : Receiver) (s : State) : (setReceiver r s).link.transmitter = s.link.transmitter := rfl
@[simp] theorem setReceiver_link_lineRate (r : Receiver) (s : State) : (setReceiver r s).link.lineRate = s.link.lineRate := rfl
@[simp] theorem setReceiver_link_restartTaken (r : Receiver) (s : State) : (setReceiver r s).link.restartTaken = s.link.restartTaken := rfl
@[simp] theorem setReceiver_link_straddling (r : Receiver) (s : State) : (setReceiver r s).link.straddling = s.link.straddling := rfl

/-! ### setTransmitter: R162 -/

@[simp] theorem setTransmitter_pending (x : Transmitter) (s : State) : (setTransmitter x s).pending = s.pending := rfl
@[simp] theorem setTransmitter_phase (x : Transmitter) (s : State) : (setTransmitter x s).phase = s.phase := rfl
@[simp] theorem setTransmitter_powerGood (x : Transmitter) (s : State) : (setTransmitter x s).powerGood = s.powerGood := rfl
@[simp] theorem setTransmitter_startUps (x : Transmitter) (s : State) : (setTransmitter x s).startUps = s.startUps := rfl
@[simp] theorem setTransmitter_params (x : Transmitter) (s : State) : (setTransmitter x s).params = s.params := rfl
@[simp] theorem setTransmitter_pendingPlane (x : Transmitter) (s : State) : (setTransmitter x s).pendingPlane = s.pendingPlane := rfl
@[simp] theorem setTransmitter_target (x : Transmitter) (s : State) : (setTransmitter x s).target = s.target := rfl
@[simp] theorem setTransmitter_shown (x : Transmitter) (s : State) : (setTransmitter x s).shown = s.shown := rfl
@[simp] theorem setTransmitter_queue (x : Transmitter) (s : State) : (setTransmitter x s).queue = s.queue := rfl
@[simp] theorem setTransmitter_idCounter (x : Transmitter) (s : State) : (setTransmitter x s).idCounter = s.idCounter := rfl
@[simp] theorem setTransmitter_slots (x : Transmitter) (s : State) : (setTransmitter x s).slots = s.slots := rfl
@[simp] theorem setTransmitter_halt (x : Transmitter) (s : State) : (setTransmitter x s).halt = s.halt := rfl
@[simp] theorem setTransmitter_bankA (x : Transmitter) (s : State) : (setTransmitter x s).bankA = s.bankA := rfl
@[simp] theorem setTransmitter_bankB (x : Transmitter) (s : State) : (setTransmitter x s).bankB = s.bankB := rfl
@[simp] theorem setTransmitter_temp (x : Transmitter) (s : State) : (setTransmitter x s).temp = s.temp := rfl
@[simp] theorem setTransmitter_rails (x : Transmitter) (s : State) : (setTransmitter x s).rails = s.rails := rfl
@[simp] theorem setTransmitter_frameTimer (x : Transmitter) (s : State) : (setTransmitter x s).frameTimer = s.frameTimer := rfl
@[simp] theorem setTransmitter_load (x : Transmitter) (s : State) : (setTransmitter x s).load = s.load := rfl
@[simp] theorem setTransmitter_raster (x : Transmitter) (s : State) : (setTransmitter x s).raster = s.raster := rfl
@[simp] theorem setTransmitter_notices (x : Transmitter) (s : State) : (setTransmitter x s).notices = s.notices := rfl
@[simp] theorem setTransmitter_link_receiver (x : Transmitter) (s : State) : (setTransmitter x s).link.receiver = s.link.receiver := rfl
@[simp] theorem setTransmitter_link_sessionOpen (x : Transmitter) (s : State) : (setTransmitter x s).link.sessionOpen = s.link.sessionOpen := rfl
@[simp] theorem setTransmitter_link_resetCause (x : Transmitter) (s : State) : (setTransmitter x s).link.resetCause = s.link.resetCause := rfl
@[simp] theorem setTransmitter_link_table (x : Transmitter) (s : State) : (setTransmitter x s).link.table = s.link.table := rfl
@[simp] theorem setTransmitter_link_replies (x : Transmitter) (s : State) : (setTransmitter x s).link.replies = s.link.replies := rfl
@[simp] theorem setTransmitter_link_cache (x : Transmitter) (s : State) : (setTransmitter x s).link.cache = s.link.cache := rfl
@[simp] theorem setTransmitter_link_counters (x : Transmitter) (s : State) : (setTransmitter x s).link.counters = s.link.counters := rfl
@[simp] theorem setTransmitter_link_transmitter (x : Transmitter) (s : State) : (setTransmitter x s).link.transmitter = x := rfl
@[simp] theorem setTransmitter_link_lineRate (x : Transmitter) (s : State) : (setTransmitter x s).link.lineRate = s.link.lineRate := rfl
@[simp] theorem setTransmitter_link_restartTaken (x : Transmitter) (s : State) : (setTransmitter x s).link.restartTaken = s.link.restartTaken := rfl
@[simp] theorem setTransmitter_link_straddling (x : Transmitter) (s : State) : (setTransmitter x s).link.straddling = s.link.straddling := rfl

/-! ### deferEntry: R158 -/

@[simp] theorem deferEntry_pending (w : Work) (s : State) : (deferEntry w s).pending = s.pending := rfl
@[simp] theorem deferEntry_phase (w : Work) (s : State) : (deferEntry w s).phase = s.phase := rfl
@[simp] theorem deferEntry_powerGood (w : Work) (s : State) : (deferEntry w s).powerGood = s.powerGood := rfl
@[simp] theorem deferEntry_startUps (w : Work) (s : State) : (deferEntry w s).startUps = s.startUps := rfl
@[simp] theorem deferEntry_params (w : Work) (s : State) : (deferEntry w s).params = s.params := rfl
@[simp] theorem deferEntry_pendingPlane (w : Work) (s : State) : (deferEntry w s).pendingPlane = s.pendingPlane := rfl
@[simp] theorem deferEntry_target (w : Work) (s : State) : (deferEntry w s).target = s.target := rfl
@[simp] theorem deferEntry_shown (w : Work) (s : State) : (deferEntry w s).shown = s.shown := rfl
@[simp] theorem deferEntry_queue (w : Work) (s : State) : (deferEntry w s).queue = s.queue := rfl
@[simp] theorem deferEntry_idCounter (w : Work) (s : State) : (deferEntry w s).idCounter = s.idCounter := rfl
@[simp] theorem deferEntry_slots (w : Work) (s : State) : (deferEntry w s).slots = s.slots := rfl
@[simp] theorem deferEntry_halt (w : Work) (s : State) : (deferEntry w s).halt = s.halt := rfl
@[simp] theorem deferEntry_bankA (w : Work) (s : State) : (deferEntry w s).bankA = s.bankA := rfl
@[simp] theorem deferEntry_bankB (w : Work) (s : State) : (deferEntry w s).bankB = s.bankB := rfl
@[simp] theorem deferEntry_temp (w : Work) (s : State) : (deferEntry w s).temp = s.temp := rfl
@[simp] theorem deferEntry_rails (w : Work) (s : State) : (deferEntry w s).rails = s.rails := rfl
@[simp] theorem deferEntry_frameTimer (w : Work) (s : State) : (deferEntry w s).frameTimer = s.frameTimer := rfl
@[simp] theorem deferEntry_load (w : Work) (s : State) : (deferEntry w s).load = s.load := rfl
@[simp] theorem deferEntry_raster (w : Work) (s : State) : (deferEntry w s).raster = s.raster := rfl
@[simp] theorem deferEntry_notices (w : Work) (s : State) : (deferEntry w s).notices = s.notices := rfl
@[simp] theorem deferEntry_link_receiver (w : Work) (s : State) : (deferEntry w s).link.receiver = s.link.receiver := rfl
@[simp] theorem deferEntry_link_sessionOpen (w : Work) (s : State) : (deferEntry w s).link.sessionOpen = s.link.sessionOpen := rfl
@[simp] theorem deferEntry_link_resetCause (w : Work) (s : State) : (deferEntry w s).link.resetCause = s.link.resetCause := rfl
@[simp] theorem deferEntry_link_table (w : Work) (s : State) : (deferEntry w s).link.table = markFirst isWaiting (.deferred w) s.link.table := rfl
@[simp] theorem deferEntry_link_replies (w : Work) (s : State) : (deferEntry w s).link.replies = s.link.replies := rfl
@[simp] theorem deferEntry_link_cache (w : Work) (s : State) : (deferEntry w s).link.cache = s.link.cache := rfl
@[simp] theorem deferEntry_link_counters (w : Work) (s : State) : (deferEntry w s).link.counters = s.link.counters := rfl
@[simp] theorem deferEntry_link_transmitter (w : Work) (s : State) : (deferEntry w s).link.transmitter = s.link.transmitter := rfl
@[simp] theorem deferEntry_link_lineRate (w : Work) (s : State) : (deferEntry w s).link.lineRate = s.link.lineRate := rfl
@[simp] theorem deferEntry_link_restartTaken (w : Work) (s : State) : (deferEntry w s).link.restartTaken = s.link.restartTaken := rfl
@[simp] theorem deferEntry_link_straddling (w : Work) (s : State) : (deferEntry w s).link.straddling = s.link.straddling := rfl

/-! ### answerEntry: R158 -/

@[simp] theorem answerEntry_pending (r : Request) (st : Status) (f : List Byte) (e : ReplyEffect) (s : State) : (answerEntry r st f e s).pending = s.pending := rfl
@[simp] theorem answerEntry_phase (r : Request) (st : Status) (f : List Byte) (e : ReplyEffect) (s : State) : (answerEntry r st f e s).phase = s.phase := rfl
@[simp] theorem answerEntry_powerGood (r : Request) (st : Status) (f : List Byte) (e : ReplyEffect) (s : State) : (answerEntry r st f e s).powerGood = s.powerGood := rfl
@[simp] theorem answerEntry_startUps (r : Request) (st : Status) (f : List Byte) (e : ReplyEffect) (s : State) : (answerEntry r st f e s).startUps = s.startUps := rfl
@[simp] theorem answerEntry_params (r : Request) (st : Status) (f : List Byte) (e : ReplyEffect) (s : State) : (answerEntry r st f e s).params = s.params := rfl
@[simp] theorem answerEntry_pendingPlane (r : Request) (st : Status) (f : List Byte) (e : ReplyEffect) (s : State) : (answerEntry r st f e s).pendingPlane = s.pendingPlane := rfl
@[simp] theorem answerEntry_target (r : Request) (st : Status) (f : List Byte) (e : ReplyEffect) (s : State) : (answerEntry r st f e s).target = s.target := rfl
@[simp] theorem answerEntry_shown (r : Request) (st : Status) (f : List Byte) (e : ReplyEffect) (s : State) : (answerEntry r st f e s).shown = s.shown := rfl
@[simp] theorem answerEntry_queue (r : Request) (st : Status) (f : List Byte) (e : ReplyEffect) (s : State) : (answerEntry r st f e s).queue = s.queue := rfl
@[simp] theorem answerEntry_idCounter (r : Request) (st : Status) (f : List Byte) (e : ReplyEffect) (s : State) : (answerEntry r st f e s).idCounter = s.idCounter := rfl
@[simp] theorem answerEntry_slots (r : Request) (st : Status) (f : List Byte) (e : ReplyEffect) (s : State) : (answerEntry r st f e s).slots = s.slots := rfl
@[simp] theorem answerEntry_halt (r : Request) (st : Status) (f : List Byte) (e : ReplyEffect) (s : State) : (answerEntry r st f e s).halt = s.halt := rfl
@[simp] theorem answerEntry_bankA (r : Request) (st : Status) (f : List Byte) (e : ReplyEffect) (s : State) : (answerEntry r st f e s).bankA = s.bankA := rfl
@[simp] theorem answerEntry_bankB (r : Request) (st : Status) (f : List Byte) (e : ReplyEffect) (s : State) : (answerEntry r st f e s).bankB = s.bankB := rfl
@[simp] theorem answerEntry_temp (r : Request) (st : Status) (f : List Byte) (e : ReplyEffect) (s : State) : (answerEntry r st f e s).temp = s.temp := rfl
@[simp] theorem answerEntry_rails (r : Request) (st : Status) (f : List Byte) (e : ReplyEffect) (s : State) : (answerEntry r st f e s).rails = s.rails := rfl
@[simp] theorem answerEntry_frameTimer (r : Request) (st : Status) (f : List Byte) (e : ReplyEffect) (s : State) : (answerEntry r st f e s).frameTimer = s.frameTimer := rfl
@[simp] theorem answerEntry_load (r : Request) (st : Status) (f : List Byte) (e : ReplyEffect) (s : State) : (answerEntry r st f e s).load = s.load := rfl
@[simp] theorem answerEntry_raster (r : Request) (st : Status) (f : List Byte) (e : ReplyEffect) (s : State) : (answerEntry r st f e s).raster = s.raster := rfl
@[simp] theorem answerEntry_notices (r : Request) (st : Status) (f : List Byte) (e : ReplyEffect) (s : State) : (answerEntry r st f e s).notices = s.notices := rfl
@[simp] theorem answerEntry_link_receiver (r : Request) (st : Status) (f : List Byte) (e : ReplyEffect) (s : State) : (answerEntry r st f e s).link.receiver = s.link.receiver := rfl
@[simp] theorem answerEntry_link_sessionOpen (r : Request) (st : Status) (f : List Byte) (e : ReplyEffect) (s : State) : (answerEntry r st f e s).link.sessionOpen = s.link.sessionOpen := rfl
@[simp] theorem answerEntry_link_resetCause (r : Request) (st : Status) (f : List Byte) (e : ReplyEffect) (s : State) : (answerEntry r st f e s).link.resetCause = s.link.resetCause := rfl
@[simp] theorem answerEntry_link_table (r : Request) (st : Status) (f : List Byte) (e : ReplyEffect) (s : State) : (answerEntry r st f e s).link.table = markFirst isWaiting .executing s.link.table := rfl
@[simp] theorem answerEntry_link_replies (r : Request) (st : Status) (f : List Byte) (e : ReplyEffect) (s : State) : (answerEntry r st f e s).link.replies = s.link.replies ++ [entryReply r st f e] := rfl
@[simp] theorem answerEntry_link_cache (r : Request) (st : Status) (f : List Byte) (e : ReplyEffect) (s : State) : (answerEntry r st f e s).link.cache = s.link.cache := rfl
@[simp] theorem answerEntry_link_counters (r : Request) (st : Status) (f : List Byte) (e : ReplyEffect) (s : State) : (answerEntry r st f e s).link.counters = s.link.counters := rfl
@[simp] theorem answerEntry_link_transmitter (r : Request) (st : Status) (f : List Byte) (e : ReplyEffect) (s : State) : (answerEntry r st f e s).link.transmitter = s.link.transmitter := rfl
@[simp] theorem answerEntry_link_lineRate (r : Request) (st : Status) (f : List Byte) (e : ReplyEffect) (s : State) : (answerEntry r st f e s).link.lineRate = s.link.lineRate := rfl
@[simp] theorem answerEntry_link_restartTaken (r : Request) (st : Status) (f : List Byte) (e : ReplyEffect) (s : State) : (answerEntry r st f e s).link.restartTaken = s.link.restartTaken := rfl
@[simp] theorem answerEntry_link_straddling (r : Request) (st : Status) (f : List Byte) (e : ReplyEffect) (s : State) : (answerEntry r st f e s).link.straddling = s.link.straddling := rfl

/-! ### finishWork: R157 -/

@[simp] theorem finishWork_pending (w : Work) (st : Status) (f : List Byte) (s : State) : (finishWork w st f s).pending = s.pending := rfl
@[simp] theorem finishWork_phase (w : Work) (st : Status) (f : List Byte) (s : State) : (finishWork w st f s).phase = s.phase := rfl
@[simp] theorem finishWork_powerGood (w : Work) (st : Status) (f : List Byte) (s : State) : (finishWork w st f s).powerGood = s.powerGood := rfl
@[simp] theorem finishWork_startUps (w : Work) (st : Status) (f : List Byte) (s : State) : (finishWork w st f s).startUps = s.startUps := rfl
@[simp] theorem finishWork_params (w : Work) (st : Status) (f : List Byte) (s : State) : (finishWork w st f s).params = s.params := rfl
@[simp] theorem finishWork_pendingPlane (w : Work) (st : Status) (f : List Byte) (s : State) : (finishWork w st f s).pendingPlane = s.pendingPlane := rfl
@[simp] theorem finishWork_target (w : Work) (st : Status) (f : List Byte) (s : State) : (finishWork w st f s).target = s.target := rfl
@[simp] theorem finishWork_shown (w : Work) (st : Status) (f : List Byte) (s : State) : (finishWork w st f s).shown = s.shown := rfl
@[simp] theorem finishWork_queue (w : Work) (st : Status) (f : List Byte) (s : State) : (finishWork w st f s).queue = s.queue := rfl
@[simp] theorem finishWork_idCounter (w : Work) (st : Status) (f : List Byte) (s : State) : (finishWork w st f s).idCounter = s.idCounter := rfl
@[simp] theorem finishWork_slots (w : Work) (st : Status) (f : List Byte) (s : State) : (finishWork w st f s).slots = s.slots := rfl
@[simp] theorem finishWork_halt (w : Work) (st : Status) (f : List Byte) (s : State) : (finishWork w st f s).halt = s.halt := rfl
@[simp] theorem finishWork_bankA (w : Work) (st : Status) (f : List Byte) (s : State) : (finishWork w st f s).bankA = s.bankA := rfl
@[simp] theorem finishWork_bankB (w : Work) (st : Status) (f : List Byte) (s : State) : (finishWork w st f s).bankB = s.bankB := rfl
@[simp] theorem finishWork_temp (w : Work) (st : Status) (f : List Byte) (s : State) : (finishWork w st f s).temp = s.temp := rfl
@[simp] theorem finishWork_rails (w : Work) (st : Status) (f : List Byte) (s : State) : (finishWork w st f s).rails = s.rails := rfl
@[simp] theorem finishWork_frameTimer (w : Work) (st : Status) (f : List Byte) (s : State) : (finishWork w st f s).frameTimer = s.frameTimer := rfl
@[simp] theorem finishWork_load (w : Work) (st : Status) (f : List Byte) (s : State) : (finishWork w st f s).load = s.load := rfl
@[simp] theorem finishWork_raster (w : Work) (st : Status) (f : List Byte) (s : State) : (finishWork w st f s).raster = s.raster := rfl
@[simp] theorem finishWork_notices (w : Work) (st : Status) (f : List Byte) (s : State) : (finishWork w st f s).notices = s.notices := rfl
@[simp] theorem finishWork_link_receiver (w : Work) (st : Status) (f : List Byte) (s : State) : (finishWork w st f s).link.receiver = s.link.receiver := rfl
@[simp] theorem finishWork_link_sessionOpen (w : Work) (st : Status) (f : List Byte) (s : State) : (finishWork w st f s).link.sessionOpen = s.link.sessionOpen := rfl
@[simp] theorem finishWork_link_resetCause (w : Work) (st : Status) (f : List Byte) (s : State) : (finishWork w st f s).link.resetCause = s.link.resetCause := rfl
@[simp] theorem finishWork_link_table (w : Work) (st : Status) (f : List Byte) (s : State) : (finishWork w st f s).link.table = finishTable w s.link.table := rfl
@[simp] theorem finishWork_link_replies (w : Work) (st : Status) (f : List Byte) (s : State) : (finishWork w st f s).link.replies = s.link.replies ++ finishReplies w st f s.link.table := rfl
@[simp] theorem finishWork_link_cache (w : Work) (st : Status) (f : List Byte) (s : State) : (finishWork w st f s).link.cache = s.link.cache := rfl
@[simp] theorem finishWork_link_counters (w : Work) (st : Status) (f : List Byte) (s : State) : (finishWork w st f s).link.counters = s.link.counters := rfl
@[simp] theorem finishWork_link_transmitter (w : Work) (st : Status) (f : List Byte) (s : State) : (finishWork w st f s).link.transmitter = s.link.transmitter := rfl
@[simp] theorem finishWork_link_lineRate (w : Work) (st : Status) (f : List Byte) (s : State) : (finishWork w st f s).link.lineRate = s.link.lineRate := rfl
@[simp] theorem finishWork_link_restartTaken (w : Work) (st : Status) (f : List Byte) (s : State) : (finishWork w st f s).link.restartTaken = s.link.restartTaken := rfl
@[simp] theorem finishWork_link_straddling (w : Work) (st : Status) (f : List Byte) (s : State) : (finishWork w st f s).link.straddling = s.link.straddling := rfl

/-! ### changeLineRate: R144 -/

@[simp] theorem changeLineRate_pending (b : Nat) (s : State) : (changeLineRate b s).pending = s.pending := rfl
@[simp] theorem changeLineRate_phase (b : Nat) (s : State) : (changeLineRate b s).phase = s.phase := rfl
@[simp] theorem changeLineRate_powerGood (b : Nat) (s : State) : (changeLineRate b s).powerGood = s.powerGood := rfl
@[simp] theorem changeLineRate_startUps (b : Nat) (s : State) : (changeLineRate b s).startUps = s.startUps := rfl
@[simp] theorem changeLineRate_params (b : Nat) (s : State) : (changeLineRate b s).params = s.params := rfl
@[simp] theorem changeLineRate_pendingPlane (b : Nat) (s : State) : (changeLineRate b s).pendingPlane = s.pendingPlane := rfl
@[simp] theorem changeLineRate_target (b : Nat) (s : State) : (changeLineRate b s).target = s.target := rfl
@[simp] theorem changeLineRate_shown (b : Nat) (s : State) : (changeLineRate b s).shown = s.shown := rfl
@[simp] theorem changeLineRate_queue (b : Nat) (s : State) : (changeLineRate b s).queue = s.queue := rfl
@[simp] theorem changeLineRate_idCounter (b : Nat) (s : State) : (changeLineRate b s).idCounter = s.idCounter := rfl
@[simp] theorem changeLineRate_slots (b : Nat) (s : State) : (changeLineRate b s).slots = s.slots := rfl
@[simp] theorem changeLineRate_halt (b : Nat) (s : State) : (changeLineRate b s).halt = s.halt := rfl
@[simp] theorem changeLineRate_bankA (b : Nat) (s : State) : (changeLineRate b s).bankA = s.bankA := rfl
@[simp] theorem changeLineRate_bankB (b : Nat) (s : State) : (changeLineRate b s).bankB = s.bankB := rfl
@[simp] theorem changeLineRate_temp (b : Nat) (s : State) : (changeLineRate b s).temp = s.temp := rfl
@[simp] theorem changeLineRate_rails (b : Nat) (s : State) : (changeLineRate b s).rails = s.rails := rfl
@[simp] theorem changeLineRate_frameTimer (b : Nat) (s : State) : (changeLineRate b s).frameTimer = s.frameTimer := rfl
@[simp] theorem changeLineRate_load (b : Nat) (s : State) : (changeLineRate b s).load = s.load := rfl
@[simp] theorem changeLineRate_raster (b : Nat) (s : State) : (changeLineRate b s).raster = s.raster := rfl
@[simp] theorem changeLineRate_notices (b : Nat) (s : State) : (changeLineRate b s).notices = s.notices := rfl
@[simp] theorem changeLineRate_link_receiver (b : Nat) (s : State) : (changeLineRate b s).link.receiver = .hunt := rfl
@[simp] theorem changeLineRate_link_sessionOpen (b : Nat) (s : State) : (changeLineRate b s).link.sessionOpen = s.link.sessionOpen := rfl
@[simp] theorem changeLineRate_link_resetCause (b : Nat) (s : State) : (changeLineRate b s).link.resetCause = s.link.resetCause := rfl
@[simp] theorem changeLineRate_link_table (b : Nat) (s : State) : (changeLineRate b s).link.table = s.link.table := rfl
@[simp] theorem changeLineRate_link_replies (b : Nat) (s : State) : (changeLineRate b s).link.replies = s.link.replies := rfl
@[simp] theorem changeLineRate_link_cache (b : Nat) (s : State) : (changeLineRate b s).link.cache = s.link.cache := rfl
@[simp] theorem changeLineRate_link_counters (b : Nat) (s : State) : (changeLineRate b s).link.counters = s.link.counters := rfl
@[simp] theorem changeLineRate_link_transmitter (b : Nat) (s : State) : (changeLineRate b s).link.transmitter = s.link.transmitter := rfl
@[simp] theorem changeLineRate_link_lineRate (b : Nat) (s : State) : (changeLineRate b s).link.lineRate = b := rfl
@[simp] theorem changeLineRate_link_restartTaken (b : Nat) (s : State) : (changeLineRate b s).link.restartTaken = s.link.restartTaken := rfl
@[simp] theorem changeLineRate_link_straddling (b : Nat) (s : State) : (changeLineRate b s).link.straddling = s.link.straddling := rfl

/-! ### countNobuf: R149 -/

@[simp] theorem countNobuf_pending (s : State) : (countNobuf s).pending = s.pending := rfl
@[simp] theorem countNobuf_phase (s : State) : (countNobuf s).phase = s.phase := rfl
@[simp] theorem countNobuf_powerGood (s : State) : (countNobuf s).powerGood = s.powerGood := rfl
@[simp] theorem countNobuf_startUps (s : State) : (countNobuf s).startUps = s.startUps := rfl
@[simp] theorem countNobuf_params (s : State) : (countNobuf s).params = s.params := rfl
@[simp] theorem countNobuf_pendingPlane (s : State) : (countNobuf s).pendingPlane = s.pendingPlane := rfl
@[simp] theorem countNobuf_target (s : State) : (countNobuf s).target = s.target := rfl
@[simp] theorem countNobuf_shown (s : State) : (countNobuf s).shown = s.shown := rfl
@[simp] theorem countNobuf_queue (s : State) : (countNobuf s).queue = s.queue := rfl
@[simp] theorem countNobuf_idCounter (s : State) : (countNobuf s).idCounter = s.idCounter := rfl
@[simp] theorem countNobuf_slots (s : State) : (countNobuf s).slots = s.slots := rfl
@[simp] theorem countNobuf_halt (s : State) : (countNobuf s).halt = s.halt := rfl
@[simp] theorem countNobuf_bankA (s : State) : (countNobuf s).bankA = s.bankA := rfl
@[simp] theorem countNobuf_bankB (s : State) : (countNobuf s).bankB = s.bankB := rfl
@[simp] theorem countNobuf_temp (s : State) : (countNobuf s).temp = s.temp := rfl
@[simp] theorem countNobuf_rails (s : State) : (countNobuf s).rails = s.rails := rfl
@[simp] theorem countNobuf_frameTimer (s : State) : (countNobuf s).frameTimer = s.frameTimer := rfl
@[simp] theorem countNobuf_load (s : State) : (countNobuf s).load = s.load := rfl
@[simp] theorem countNobuf_raster (s : State) : (countNobuf s).raster = s.raster := rfl
@[simp] theorem countNobuf_notices (s : State) : (countNobuf s).notices = s.notices := rfl
@[simp] theorem countNobuf_link_receiver (s : State) : (countNobuf s).link.receiver = s.link.receiver := rfl
@[simp] theorem countNobuf_link_sessionOpen (s : State) : (countNobuf s).link.sessionOpen = s.link.sessionOpen := rfl
@[simp] theorem countNobuf_link_resetCause (s : State) : (countNobuf s).link.resetCause = s.link.resetCause := rfl
@[simp] theorem countNobuf_link_table (s : State) : (countNobuf s).link.table = s.link.table := rfl
@[simp] theorem countNobuf_link_replies (s : State) : (countNobuf s).link.replies = s.link.replies := rfl
@[simp] theorem countNobuf_link_cache (s : State) : (countNobuf s).link.cache = s.link.cache := rfl
@[simp] theorem countNobuf_link_counters (s : State) : (countNobuf s).link.counters = { s.link.counters with nobuf := counterUp s.link.counters.nobuf } := rfl
@[simp] theorem countNobuf_link_transmitter (s : State) : (countNobuf s).link.transmitter = s.link.transmitter := rfl
@[simp] theorem countNobuf_link_lineRate (s : State) : (countNobuf s).link.lineRate = s.link.lineRate := rfl
@[simp] theorem countNobuf_link_restartTaken (s : State) : (countNobuf s).link.restartTaken = s.link.restartTaken := rfl
@[simp] theorem countNobuf_link_straddling (s : State) : (countNobuf s).link.straddling = s.link.straddling := rfl

/-! ### countCrcError: R149 -/

@[simp] theorem countCrcError_pending (s : State) : (countCrcError s).pending = s.pending := rfl
@[simp] theorem countCrcError_phase (s : State) : (countCrcError s).phase = s.phase := rfl
@[simp] theorem countCrcError_powerGood (s : State) : (countCrcError s).powerGood = s.powerGood := rfl
@[simp] theorem countCrcError_startUps (s : State) : (countCrcError s).startUps = s.startUps := rfl
@[simp] theorem countCrcError_params (s : State) : (countCrcError s).params = s.params := rfl
@[simp] theorem countCrcError_pendingPlane (s : State) : (countCrcError s).pendingPlane = s.pendingPlane := rfl
@[simp] theorem countCrcError_target (s : State) : (countCrcError s).target = s.target := rfl
@[simp] theorem countCrcError_shown (s : State) : (countCrcError s).shown = s.shown := rfl
@[simp] theorem countCrcError_queue (s : State) : (countCrcError s).queue = s.queue := rfl
@[simp] theorem countCrcError_idCounter (s : State) : (countCrcError s).idCounter = s.idCounter := rfl
@[simp] theorem countCrcError_slots (s : State) : (countCrcError s).slots = s.slots := rfl
@[simp] theorem countCrcError_halt (s : State) : (countCrcError s).halt = s.halt := rfl
@[simp] theorem countCrcError_bankA (s : State) : (countCrcError s).bankA = s.bankA := rfl
@[simp] theorem countCrcError_bankB (s : State) : (countCrcError s).bankB = s.bankB := rfl
@[simp] theorem countCrcError_temp (s : State) : (countCrcError s).temp = s.temp := rfl
@[simp] theorem countCrcError_rails (s : State) : (countCrcError s).rails = s.rails := rfl
@[simp] theorem countCrcError_frameTimer (s : State) : (countCrcError s).frameTimer = s.frameTimer := rfl
@[simp] theorem countCrcError_load (s : State) : (countCrcError s).load = s.load := rfl
@[simp] theorem countCrcError_raster (s : State) : (countCrcError s).raster = s.raster := rfl
@[simp] theorem countCrcError_notices (s : State) : (countCrcError s).notices = s.notices := rfl
@[simp] theorem countCrcError_link_receiver (s : State) : (countCrcError s).link.receiver = s.link.receiver := rfl
@[simp] theorem countCrcError_link_sessionOpen (s : State) : (countCrcError s).link.sessionOpen = s.link.sessionOpen := rfl
@[simp] theorem countCrcError_link_resetCause (s : State) : (countCrcError s).link.resetCause = s.link.resetCause := rfl
@[simp] theorem countCrcError_link_table (s : State) : (countCrcError s).link.table = s.link.table := rfl
@[simp] theorem countCrcError_link_replies (s : State) : (countCrcError s).link.replies = s.link.replies := rfl
@[simp] theorem countCrcError_link_cache (s : State) : (countCrcError s).link.cache = s.link.cache := rfl
@[simp] theorem countCrcError_link_counters (s : State) : (countCrcError s).link.counters = { s.link.counters with crc := counterUp s.link.counters.crc } := rfl
@[simp] theorem countCrcError_link_transmitter (s : State) : (countCrcError s).link.transmitter = s.link.transmitter := rfl
@[simp] theorem countCrcError_link_lineRate (s : State) : (countCrcError s).link.lineRate = s.link.lineRate := rfl
@[simp] theorem countCrcError_link_restartTaken (s : State) : (countCrcError s).link.restartTaken = s.link.restartTaken := rfl
@[simp] theorem countCrcError_link_straddling (s : State) : (countCrcError s).link.straddling = s.link.straddling := rfl

/-! ### countClassError: R149 -/

@[simp] theorem countClassError_pending (s : State) : (countClassError s).pending = s.pending := rfl
@[simp] theorem countClassError_phase (s : State) : (countClassError s).phase = s.phase := rfl
@[simp] theorem countClassError_powerGood (s : State) : (countClassError s).powerGood = s.powerGood := rfl
@[simp] theorem countClassError_startUps (s : State) : (countClassError s).startUps = s.startUps := rfl
@[simp] theorem countClassError_params (s : State) : (countClassError s).params = s.params := rfl
@[simp] theorem countClassError_pendingPlane (s : State) : (countClassError s).pendingPlane = s.pendingPlane := rfl
@[simp] theorem countClassError_target (s : State) : (countClassError s).target = s.target := rfl
@[simp] theorem countClassError_shown (s : State) : (countClassError s).shown = s.shown := rfl
@[simp] theorem countClassError_queue (s : State) : (countClassError s).queue = s.queue := rfl
@[simp] theorem countClassError_idCounter (s : State) : (countClassError s).idCounter = s.idCounter := rfl
@[simp] theorem countClassError_slots (s : State) : (countClassError s).slots = s.slots := rfl
@[simp] theorem countClassError_halt (s : State) : (countClassError s).halt = s.halt := rfl
@[simp] theorem countClassError_bankA (s : State) : (countClassError s).bankA = s.bankA := rfl
@[simp] theorem countClassError_bankB (s : State) : (countClassError s).bankB = s.bankB := rfl
@[simp] theorem countClassError_temp (s : State) : (countClassError s).temp = s.temp := rfl
@[simp] theorem countClassError_rails (s : State) : (countClassError s).rails = s.rails := rfl
@[simp] theorem countClassError_frameTimer (s : State) : (countClassError s).frameTimer = s.frameTimer := rfl
@[simp] theorem countClassError_load (s : State) : (countClassError s).load = s.load := rfl
@[simp] theorem countClassError_raster (s : State) : (countClassError s).raster = s.raster := rfl
@[simp] theorem countClassError_notices (s : State) : (countClassError s).notices = s.notices := rfl
@[simp] theorem countClassError_link_receiver (s : State) : (countClassError s).link.receiver = s.link.receiver := rfl
@[simp] theorem countClassError_link_sessionOpen (s : State) : (countClassError s).link.sessionOpen = s.link.sessionOpen := rfl
@[simp] theorem countClassError_link_resetCause (s : State) : (countClassError s).link.resetCause = s.link.resetCause := rfl
@[simp] theorem countClassError_link_table (s : State) : (countClassError s).link.table = s.link.table := rfl
@[simp] theorem countClassError_link_replies (s : State) : (countClassError s).link.replies = s.link.replies := rfl
@[simp] theorem countClassError_link_cache (s : State) : (countClassError s).link.cache = s.link.cache := rfl
@[simp] theorem countClassError_link_counters (s : State) : (countClassError s).link.counters = { s.link.counters with cls := counterUp s.link.counters.cls } := rfl
@[simp] theorem countClassError_link_transmitter (s : State) : (countClassError s).link.transmitter = s.link.transmitter := rfl
@[simp] theorem countClassError_link_lineRate (s : State) : (countClassError s).link.lineRate = s.link.lineRate := rfl
@[simp] theorem countClassError_link_restartTaken (s : State) : (countClassError s).link.restartTaken = s.link.restartTaken := rfl
@[simp] theorem countClassError_link_straddling (s : State) : (countClassError s).link.straddling = s.link.straddling := rfl

/-! ### countGapError: R149 -/

@[simp] theorem countGapError_pending (s : State) : (countGapError s).pending = s.pending := rfl
@[simp] theorem countGapError_phase (s : State) : (countGapError s).phase = s.phase := rfl
@[simp] theorem countGapError_powerGood (s : State) : (countGapError s).powerGood = s.powerGood := rfl
@[simp] theorem countGapError_startUps (s : State) : (countGapError s).startUps = s.startUps := rfl
@[simp] theorem countGapError_params (s : State) : (countGapError s).params = s.params := rfl
@[simp] theorem countGapError_pendingPlane (s : State) : (countGapError s).pendingPlane = s.pendingPlane := rfl
@[simp] theorem countGapError_target (s : State) : (countGapError s).target = s.target := rfl
@[simp] theorem countGapError_shown (s : State) : (countGapError s).shown = s.shown := rfl
@[simp] theorem countGapError_queue (s : State) : (countGapError s).queue = s.queue := rfl
@[simp] theorem countGapError_idCounter (s : State) : (countGapError s).idCounter = s.idCounter := rfl
@[simp] theorem countGapError_slots (s : State) : (countGapError s).slots = s.slots := rfl
@[simp] theorem countGapError_halt (s : State) : (countGapError s).halt = s.halt := rfl
@[simp] theorem countGapError_bankA (s : State) : (countGapError s).bankA = s.bankA := rfl
@[simp] theorem countGapError_bankB (s : State) : (countGapError s).bankB = s.bankB := rfl
@[simp] theorem countGapError_temp (s : State) : (countGapError s).temp = s.temp := rfl
@[simp] theorem countGapError_rails (s : State) : (countGapError s).rails = s.rails := rfl
@[simp] theorem countGapError_frameTimer (s : State) : (countGapError s).frameTimer = s.frameTimer := rfl
@[simp] theorem countGapError_load (s : State) : (countGapError s).load = s.load := rfl
@[simp] theorem countGapError_raster (s : State) : (countGapError s).raster = s.raster := rfl
@[simp] theorem countGapError_notices (s : State) : (countGapError s).notices = s.notices := rfl
@[simp] theorem countGapError_link_receiver (s : State) : (countGapError s).link.receiver = s.link.receiver := rfl
@[simp] theorem countGapError_link_sessionOpen (s : State) : (countGapError s).link.sessionOpen = s.link.sessionOpen := rfl
@[simp] theorem countGapError_link_resetCause (s : State) : (countGapError s).link.resetCause = s.link.resetCause := rfl
@[simp] theorem countGapError_link_table (s : State) : (countGapError s).link.table = s.link.table := rfl
@[simp] theorem countGapError_link_replies (s : State) : (countGapError s).link.replies = s.link.replies := rfl
@[simp] theorem countGapError_link_cache (s : State) : (countGapError s).link.cache = s.link.cache := rfl
@[simp] theorem countGapError_link_counters (s : State) : (countGapError s).link.counters = { s.link.counters with gap := counterUp s.link.counters.gap } := rfl
@[simp] theorem countGapError_link_transmitter (s : State) : (countGapError s).link.transmitter = s.link.transmitter := rfl
@[simp] theorem countGapError_link_lineRate (s : State) : (countGapError s).link.lineRate = s.link.lineRate := rfl
@[simp] theorem countGapError_link_restartTaken (s : State) : (countGapError s).link.restartTaken = s.link.restartTaken := rfl
@[simp] theorem countGapError_link_straddling (s : State) : (countGapError s).link.straddling = s.link.straddling := rfl

/-! ### countLengthError: R149 -/

@[simp] theorem countLengthError_pending (s : State) : (countLengthError s).pending = s.pending := rfl
@[simp] theorem countLengthError_phase (s : State) : (countLengthError s).phase = s.phase := rfl
@[simp] theorem countLengthError_powerGood (s : State) : (countLengthError s).powerGood = s.powerGood := rfl
@[simp] theorem countLengthError_startUps (s : State) : (countLengthError s).startUps = s.startUps := rfl
@[simp] theorem countLengthError_params (s : State) : (countLengthError s).params = s.params := rfl
@[simp] theorem countLengthError_pendingPlane (s : State) : (countLengthError s).pendingPlane = s.pendingPlane := rfl
@[simp] theorem countLengthError_target (s : State) : (countLengthError s).target = s.target := rfl
@[simp] theorem countLengthError_shown (s : State) : (countLengthError s).shown = s.shown := rfl
@[simp] theorem countLengthError_queue (s : State) : (countLengthError s).queue = s.queue := rfl
@[simp] theorem countLengthError_idCounter (s : State) : (countLengthError s).idCounter = s.idCounter := rfl
@[simp] theorem countLengthError_slots (s : State) : (countLengthError s).slots = s.slots := rfl
@[simp] theorem countLengthError_halt (s : State) : (countLengthError s).halt = s.halt := rfl
@[simp] theorem countLengthError_bankA (s : State) : (countLengthError s).bankA = s.bankA := rfl
@[simp] theorem countLengthError_bankB (s : State) : (countLengthError s).bankB = s.bankB := rfl
@[simp] theorem countLengthError_temp (s : State) : (countLengthError s).temp = s.temp := rfl
@[simp] theorem countLengthError_rails (s : State) : (countLengthError s).rails = s.rails := rfl
@[simp] theorem countLengthError_frameTimer (s : State) : (countLengthError s).frameTimer = s.frameTimer := rfl
@[simp] theorem countLengthError_load (s : State) : (countLengthError s).load = s.load := rfl
@[simp] theorem countLengthError_raster (s : State) : (countLengthError s).raster = s.raster := rfl
@[simp] theorem countLengthError_notices (s : State) : (countLengthError s).notices = s.notices := rfl
@[simp] theorem countLengthError_link_receiver (s : State) : (countLengthError s).link.receiver = s.link.receiver := rfl
@[simp] theorem countLengthError_link_sessionOpen (s : State) : (countLengthError s).link.sessionOpen = s.link.sessionOpen := rfl
@[simp] theorem countLengthError_link_resetCause (s : State) : (countLengthError s).link.resetCause = s.link.resetCause := rfl
@[simp] theorem countLengthError_link_table (s : State) : (countLengthError s).link.table = s.link.table := rfl
@[simp] theorem countLengthError_link_replies (s : State) : (countLengthError s).link.replies = s.link.replies := rfl
@[simp] theorem countLengthError_link_cache (s : State) : (countLengthError s).link.cache = s.link.cache := rfl
@[simp] theorem countLengthError_link_counters (s : State) : (countLengthError s).link.counters = { s.link.counters with length := counterUp s.link.counters.length } := rfl
@[simp] theorem countLengthError_link_transmitter (s : State) : (countLengthError s).link.transmitter = s.link.transmitter := rfl
@[simp] theorem countLengthError_link_lineRate (s : State) : (countLengthError s).link.lineRate = s.link.lineRate := rfl
@[simp] theorem countLengthError_link_restartTaken (s : State) : (countLengthError s).link.restartTaken = s.link.restartTaken := rfl
@[simp] theorem countLengthError_link_straddling (s : State) : (countLengthError s).link.straddling = s.link.straddling := rfl

/-! ### setSlot: R39 -/

@[simp] theorem setSlot_pending (i : Fin 8) (x : Slot) (s : State) : (setSlot i x s).pending = s.pending := rfl
@[simp] theorem setSlot_phase (i : Fin 8) (x : Slot) (s : State) : (setSlot i x s).phase = s.phase := rfl
@[simp] theorem setSlot_powerGood (i : Fin 8) (x : Slot) (s : State) : (setSlot i x s).powerGood = s.powerGood := rfl
@[simp] theorem setSlot_startUps (i : Fin 8) (x : Slot) (s : State) : (setSlot i x s).startUps = s.startUps := rfl
@[simp] theorem setSlot_params (i : Fin 8) (x : Slot) (s : State) : (setSlot i x s).params = s.params := rfl
@[simp] theorem setSlot_pendingPlane (i : Fin 8) (x : Slot) (s : State) : (setSlot i x s).pendingPlane = s.pendingPlane := rfl
@[simp] theorem setSlot_target (i : Fin 8) (x : Slot) (s : State) : (setSlot i x s).target = s.target := rfl
@[simp] theorem setSlot_shown (i : Fin 8) (x : Slot) (s : State) : (setSlot i x s).shown = s.shown := rfl
@[simp] theorem setSlot_queue (i : Fin 8) (x : Slot) (s : State) : (setSlot i x s).queue = s.queue := rfl
@[simp] theorem setSlot_idCounter (i : Fin 8) (x : Slot) (s : State) : (setSlot i x s).idCounter = s.idCounter := rfl
@[simp] theorem setSlot_slots (i : Fin 8) (x : Slot) (s : State) : (setSlot i x s).slots = s.slots.set i x := rfl
@[simp] theorem setSlot_halt (i : Fin 8) (x : Slot) (s : State) : (setSlot i x s).halt = s.halt := rfl
@[simp] theorem setSlot_bankA (i : Fin 8) (x : Slot) (s : State) : (setSlot i x s).bankA = s.bankA := rfl
@[simp] theorem setSlot_bankB (i : Fin 8) (x : Slot) (s : State) : (setSlot i x s).bankB = s.bankB := rfl
@[simp] theorem setSlot_temp (i : Fin 8) (x : Slot) (s : State) : (setSlot i x s).temp = s.temp := rfl
@[simp] theorem setSlot_rails (i : Fin 8) (x : Slot) (s : State) : (setSlot i x s).rails = s.rails := rfl
@[simp] theorem setSlot_frameTimer (i : Fin 8) (x : Slot) (s : State) : (setSlot i x s).frameTimer = s.frameTimer := rfl
@[simp] theorem setSlot_load (i : Fin 8) (x : Slot) (s : State) : (setSlot i x s).load = s.load := rfl
@[simp] theorem setSlot_raster (i : Fin 8) (x : Slot) (s : State) : (setSlot i x s).raster = s.raster := rfl
@[simp] theorem setSlot_notices (i : Fin 8) (x : Slot) (s : State) : (setSlot i x s).notices = s.notices := rfl
@[simp] theorem setSlot_link (i : Fin 8) (x : Slot) (s : State) : (setSlot i x s).link = s.link := rfl

/-! ### latchTarget: R44 -/

@[simp] theorem latchTarget_pending (r : Rect) (b : Bool) (s : State) : (latchTarget r b s).pending = s.pending := rfl
@[simp] theorem latchTarget_phase (r : Rect) (b : Bool) (s : State) : (latchTarget r b s).phase = s.phase := rfl
@[simp] theorem latchTarget_powerGood (r : Rect) (b : Bool) (s : State) : (latchTarget r b s).powerGood = s.powerGood := rfl
@[simp] theorem latchTarget_startUps (r : Rect) (b : Bool) (s : State) : (latchTarget r b s).startUps = s.startUps := rfl
@[simp] theorem latchTarget_params (r : Rect) (b : Bool) (s : State) : (latchTarget r b s).params = s.params := rfl
@[simp] theorem latchTarget_pendingPlane (r : Rect) (b : Bool) (s : State) : (latchTarget r b s).pendingPlane = s.pendingPlane := rfl
@[simp] theorem latchTarget_target (r : Rect) (b : Bool) (s : State) : (latchTarget r b s).target = planePaste r (latchImage s r b) s.target := rfl
@[simp] theorem latchTarget_shown (r : Rect) (b : Bool) (s : State) : (latchTarget r b s).shown = s.shown := rfl
@[simp] theorem latchTarget_queue (r : Rect) (b : Bool) (s : State) : (latchTarget r b s).queue = s.queue := rfl
@[simp] theorem latchTarget_idCounter (r : Rect) (b : Bool) (s : State) : (latchTarget r b s).idCounter = s.idCounter := rfl
@[simp] theorem latchTarget_slots (r : Rect) (b : Bool) (s : State) : (latchTarget r b s).slots = s.slots := rfl
@[simp] theorem latchTarget_halt (r : Rect) (b : Bool) (s : State) : (latchTarget r b s).halt = s.halt := rfl
@[simp] theorem latchTarget_bankA (r : Rect) (b : Bool) (s : State) : (latchTarget r b s).bankA = s.bankA := rfl
@[simp] theorem latchTarget_bankB (r : Rect) (b : Bool) (s : State) : (latchTarget r b s).bankB = s.bankB := rfl
@[simp] theorem latchTarget_temp (r : Rect) (b : Bool) (s : State) : (latchTarget r b s).temp = s.temp := rfl
@[simp] theorem latchTarget_rails (r : Rect) (b : Bool) (s : State) : (latchTarget r b s).rails = s.rails := rfl
@[simp] theorem latchTarget_frameTimer (r : Rect) (b : Bool) (s : State) : (latchTarget r b s).frameTimer = s.frameTimer := rfl
@[simp] theorem latchTarget_load (r : Rect) (b : Bool) (s : State) : (latchTarget r b s).load = s.load := rfl
@[simp] theorem latchTarget_raster (r : Rect) (b : Bool) (s : State) : (latchTarget r b s).raster = s.raster := rfl
@[simp] theorem latchTarget_notices (r : Rect) (b : Bool) (s : State) : (latchTarget r b s).notices = s.notices := rfl
@[simp] theorem latchTarget_link (r : Rect) (b : Bool) (s : State) : (latchTarget r b s).link = s.link := rfl

/-! ### showTarget: R51 -/

@[simp] theorem showTarget_pending (r : Rect) (s : State) : (showTarget r s).pending = s.pending := rfl
@[simp] theorem showTarget_phase (r : Rect) (s : State) : (showTarget r s).phase = s.phase := rfl
@[simp] theorem showTarget_powerGood (r : Rect) (s : State) : (showTarget r s).powerGood = s.powerGood := rfl
@[simp] theorem showTarget_startUps (r : Rect) (s : State) : (showTarget r s).startUps = s.startUps := rfl
@[simp] theorem showTarget_params (r : Rect) (s : State) : (showTarget r s).params = s.params := rfl
@[simp] theorem showTarget_pendingPlane (r : Rect) (s : State) : (showTarget r s).pendingPlane = s.pendingPlane := rfl
@[simp] theorem showTarget_target (r : Rect) (s : State) : (showTarget r s).target = s.target := rfl
@[simp] theorem showTarget_shown (r : Rect) (s : State) : (showTarget r s).shown = planePaste r (planeCrop r s.target) s.shown := rfl
@[simp] theorem showTarget_queue (r : Rect) (s : State) : (showTarget r s).queue = s.queue := rfl
@[simp] theorem showTarget_idCounter (r : Rect) (s : State) : (showTarget r s).idCounter = s.idCounter := rfl
@[simp] theorem showTarget_slots (r : Rect) (s : State) : (showTarget r s).slots = s.slots := rfl
@[simp] theorem showTarget_halt (r : Rect) (s : State) : (showTarget r s).halt = s.halt := rfl
@[simp] theorem showTarget_bankA (r : Rect) (s : State) : (showTarget r s).bankA = s.bankA := rfl
@[simp] theorem showTarget_bankB (r : Rect) (s : State) : (showTarget r s).bankB = s.bankB := rfl
@[simp] theorem showTarget_temp (r : Rect) (s : State) : (showTarget r s).temp = s.temp := rfl
@[simp] theorem showTarget_rails (r : Rect) (s : State) : (showTarget r s).rails = s.rails := rfl
@[simp] theorem showTarget_frameTimer (r : Rect) (s : State) : (showTarget r s).frameTimer = s.frameTimer := rfl
@[simp] theorem showTarget_load (r : Rect) (s : State) : (showTarget r s).load = s.load := rfl
@[simp] theorem showTarget_raster (r : Rect) (s : State) : (showTarget r s).raster = s.raster := rfl
@[simp] theorem showTarget_notices (r : Rect) (s : State) : (showTarget r s).notices = s.notices := rfl
@[simp] theorem showTarget_link (r : Rect) (s : State) : (showTarget r s).link = s.link := rfl

/-! ### withdrawLatch: R52 -/

@[simp] theorem withdrawLatch_pending (r : Rect) (s : State) : (withdrawLatch r s).pending = s.pending := rfl
@[simp] theorem withdrawLatch_phase (r : Rect) (s : State) : (withdrawLatch r s).phase = s.phase := rfl
@[simp] theorem withdrawLatch_powerGood (r : Rect) (s : State) : (withdrawLatch r s).powerGood = s.powerGood := rfl
@[simp] theorem withdrawLatch_startUps (r : Rect) (s : State) : (withdrawLatch r s).startUps = s.startUps := rfl
@[simp] theorem withdrawLatch_params (r : Rect) (s : State) : (withdrawLatch r s).params = s.params := rfl
@[simp] theorem withdrawLatch_pendingPlane (r : Rect) (s : State) : (withdrawLatch r s).pendingPlane = s.pendingPlane := rfl
@[simp] theorem withdrawLatch_target (r : Rect) (s : State) : (withdrawLatch r s).target = planePaste r (planeCrop r s.shown) s.target := rfl
@[simp] theorem withdrawLatch_shown (r : Rect) (s : State) : (withdrawLatch r s).shown = s.shown := rfl
@[simp] theorem withdrawLatch_queue (r : Rect) (s : State) : (withdrawLatch r s).queue = s.queue := rfl
@[simp] theorem withdrawLatch_idCounter (r : Rect) (s : State) : (withdrawLatch r s).idCounter = s.idCounter := rfl
@[simp] theorem withdrawLatch_slots (r : Rect) (s : State) : (withdrawLatch r s).slots = s.slots := rfl
@[simp] theorem withdrawLatch_halt (r : Rect) (s : State) : (withdrawLatch r s).halt = s.halt := rfl
@[simp] theorem withdrawLatch_bankA (r : Rect) (s : State) : (withdrawLatch r s).bankA = s.bankA := rfl
@[simp] theorem withdrawLatch_bankB (r : Rect) (s : State) : (withdrawLatch r s).bankB = s.bankB := rfl
@[simp] theorem withdrawLatch_temp (r : Rect) (s : State) : (withdrawLatch r s).temp = s.temp := rfl
@[simp] theorem withdrawLatch_rails (r : Rect) (s : State) : (withdrawLatch r s).rails = s.rails := rfl
@[simp] theorem withdrawLatch_frameTimer (r : Rect) (s : State) : (withdrawLatch r s).frameTimer = s.frameTimer := rfl
@[simp] theorem withdrawLatch_load (r : Rect) (s : State) : (withdrawLatch r s).load = s.load := rfl
@[simp] theorem withdrawLatch_raster (r : Rect) (s : State) : (withdrawLatch r s).raster = s.raster := rfl
@[simp] theorem withdrawLatch_notices (r : Rect) (s : State) : (withdrawLatch r s).notices = s.notices := rfl
@[simp] theorem withdrawLatch_link (r : Rect) (s : State) : (withdrawLatch r s).link = s.link := rfl

/-! ### blurRect: R52 -/

@[simp] theorem blurRect_pending (r : Rect) (s : State) : (blurRect r s).pending = s.pending := rfl
@[simp] theorem blurRect_phase (r : Rect) (s : State) : (blurRect r s).phase = s.phase := rfl
@[simp] theorem blurRect_powerGood (r : Rect) (s : State) : (blurRect r s).powerGood = s.powerGood := rfl
@[simp] theorem blurRect_startUps (r : Rect) (s : State) : (blurRect r s).startUps = s.startUps := rfl
@[simp] theorem blurRect_params (r : Rect) (s : State) : (blurRect r s).params = s.params := rfl
@[simp] theorem blurRect_pendingPlane (r : Rect) (s : State) : (blurRect r s).pendingPlane = s.pendingPlane := rfl
@[simp] theorem blurRect_target (r : Rect) (s : State) : (blurRect r s).target = planeFill r .unknown s.target := rfl
@[simp] theorem blurRect_shown (r : Rect) (s : State) : (blurRect r s).shown = planeFill r .unknown s.shown := rfl
@[simp] theorem blurRect_queue (r : Rect) (s : State) : (blurRect r s).queue = s.queue := rfl
@[simp] theorem blurRect_idCounter (r : Rect) (s : State) : (blurRect r s).idCounter = s.idCounter := rfl
@[simp] theorem blurRect_slots (r : Rect) (s : State) : (blurRect r s).slots = s.slots := rfl
@[simp] theorem blurRect_halt (r : Rect) (s : State) : (blurRect r s).halt = s.halt := rfl
@[simp] theorem blurRect_bankA (r : Rect) (s : State) : (blurRect r s).bankA = s.bankA := rfl
@[simp] theorem blurRect_bankB (r : Rect) (s : State) : (blurRect r s).bankB = s.bankB := rfl
@[simp] theorem blurRect_temp (r : Rect) (s : State) : (blurRect r s).temp = s.temp := rfl
@[simp] theorem blurRect_rails (r : Rect) (s : State) : (blurRect r s).rails = s.rails := rfl
@[simp] theorem blurRect_frameTimer (r : Rect) (s : State) : (blurRect r s).frameTimer = s.frameTimer := rfl
@[simp] theorem blurRect_load (r : Rect) (s : State) : (blurRect r s).load = s.load := rfl
@[simp] theorem blurRect_raster (r : Rect) (s : State) : (blurRect r s).raster = s.raster := rfl
@[simp] theorem blurRect_notices (r : Rect) (s : State) : (blurRect r s).notices = s.notices := rfl
@[simp] theorem blurRect_link (r : Rect) (s : State) : (blurRect r s).link = s.link := rfl

/-! ### clearLoadFences: R122 -/

@[simp] theorem clearLoadFences_pending (s : State) : (clearLoadFences s).pending = s.pending := rfl
@[simp] theorem clearLoadFences_phase (s : State) : (clearLoadFences s).phase = s.phase := rfl
@[simp] theorem clearLoadFences_powerGood (s : State) : (clearLoadFences s).powerGood = s.powerGood := rfl
@[simp] theorem clearLoadFences_startUps (s : State) : (clearLoadFences s).startUps = s.startUps := rfl
@[simp] theorem clearLoadFences_params (s : State) : (clearLoadFences s).params = s.params := rfl
@[simp] theorem clearLoadFences_pendingPlane (s : State) : (clearLoadFences s).pendingPlane = s.pendingPlane := rfl
@[simp] theorem clearLoadFences_target (s : State) : (clearLoadFences s).target = s.target := rfl
@[simp] theorem clearLoadFences_shown (s : State) : (clearLoadFences s).shown = s.shown := rfl
@[simp] theorem clearLoadFences_queue (s : State) : (clearLoadFences s).queue = s.queue.map fun x => { x with loadFence := false } := rfl
@[simp] theorem clearLoadFences_idCounter (s : State) : (clearLoadFences s).idCounter = s.idCounter := rfl
@[simp] theorem clearLoadFences_slots (s : State) : (clearLoadFences s).slots = s.slots := rfl
@[simp] theorem clearLoadFences_halt (s : State) : (clearLoadFences s).halt = s.halt := rfl
@[simp] theorem clearLoadFences_bankA (s : State) : (clearLoadFences s).bankA = s.bankA := rfl
@[simp] theorem clearLoadFences_bankB (s : State) : (clearLoadFences s).bankB = s.bankB := rfl
@[simp] theorem clearLoadFences_temp (s : State) : (clearLoadFences s).temp = s.temp := rfl
@[simp] theorem clearLoadFences_rails (s : State) : (clearLoadFences s).rails = s.rails := rfl
@[simp] theorem clearLoadFences_frameTimer (s : State) : (clearLoadFences s).frameTimer = s.frameTimer := rfl
@[simp] theorem clearLoadFences_load (s : State) : (clearLoadFences s).load = s.load := rfl
@[simp] theorem clearLoadFences_raster (s : State) : (clearLoadFences s).raster = s.raster := rfl
@[simp] theorem clearLoadFences_notices (s : State) : (clearLoadFences s).notices = s.notices := rfl
@[simp] theorem clearLoadFences_link (s : State) : (clearLoadFences s).link = s.link := rfl

/-! ### scheduleBoundary: R108 -/

@[simp] theorem scheduleBoundary_pending (s : State) : (scheduleBoundary s).pending = s.pending := rfl
@[simp] theorem scheduleBoundary_phase (s : State) : (scheduleBoundary s).phase = s.phase := rfl
@[simp] theorem scheduleBoundary_powerGood (s : State) : (scheduleBoundary s).powerGood = s.powerGood := rfl
@[simp] theorem scheduleBoundary_startUps (s : State) : (scheduleBoundary s).startUps = s.startUps := rfl
@[simp] theorem scheduleBoundary_params (s : State) : (scheduleBoundary s).params = s.params := rfl
@[simp] theorem scheduleBoundary_pendingPlane (s : State) : (scheduleBoundary s).pendingPlane = s.pendingPlane := rfl
@[simp] theorem scheduleBoundary_target (s : State) : (scheduleBoundary s).target = s.target := rfl
@[simp] theorem scheduleBoundary_shown (s : State) : (scheduleBoundary s).shown = s.shown := rfl
@[simp] theorem scheduleBoundary_queue (s : State) : (scheduleBoundary s).queue = s.queue := rfl
@[simp] theorem scheduleBoundary_idCounter (s : State) : (scheduleBoundary s).idCounter = s.idCounter := rfl
@[simp] theorem scheduleBoundary_slots (s : State) : (scheduleBoundary s).slots = s.slots := rfl
@[simp] theorem scheduleBoundary_halt (s : State) : (scheduleBoundary s).halt = s.halt := rfl
@[simp] theorem scheduleBoundary_bankA (s : State) : (scheduleBoundary s).bankA = s.bankA := rfl
@[simp] theorem scheduleBoundary_bankB (s : State) : (scheduleBoundary s).bankB = s.bankB := rfl
@[simp] theorem scheduleBoundary_temp (s : State) : (scheduleBoundary s).temp = s.temp := rfl
@[simp] theorem scheduleBoundary_rails (s : State) : (scheduleBoundary s).rails = s.rails := rfl
@[simp] theorem scheduleBoundary_frameTimer (s : State) : (scheduleBoundary s).frameTimer = .running s.params.frameRate := rfl
@[simp] theorem scheduleBoundary_load (s : State) : (scheduleBoundary s).load = s.load := rfl
@[simp] theorem scheduleBoundary_raster (s : State) : (scheduleBoundary s).raster = s.raster := rfl
@[simp] theorem scheduleBoundary_notices (s : State) : (scheduleBoundary s).notices = s.notices := rfl
@[simp] theorem scheduleBoundary_link (s : State) : (scheduleBoundary s).link = s.link := rfl

/-! ### enterFalling: R102 -/

@[simp] theorem enterFalling_pending (s : State) : (enterFalling s).pending = s.pending := rfl
@[simp] theorem enterFalling_phase (s : State) : (enterFalling s).phase = s.phase := rfl
@[simp] theorem enterFalling_powerGood (s : State) : (enterFalling s).powerGood = s.powerGood := rfl
@[simp] theorem enterFalling_startUps (s : State) : (enterFalling s).startUps = s.startUps := rfl
@[simp] theorem enterFalling_params (s : State) : (enterFalling s).params = s.params := rfl
@[simp] theorem enterFalling_pendingPlane (s : State) : (enterFalling s).pendingPlane = s.pendingPlane := rfl
@[simp] theorem enterFalling_target (s : State) : (enterFalling s).target = s.target := rfl
@[simp] theorem enterFalling_shown (s : State) : (enterFalling s).shown = s.shown := rfl
@[simp] theorem enterFalling_queue (s : State) : (enterFalling s).queue = s.queue := rfl
@[simp] theorem enterFalling_idCounter (s : State) : (enterFalling s).idCounter = s.idCounter := rfl
@[simp] theorem enterFalling_slots (s : State) : (enterFalling s).slots = s.slots := rfl
@[simp] theorem enterFalling_halt (s : State) : (enterFalling s).halt = s.halt := rfl
@[simp] theorem enterFalling_bankA (s : State) : (enterFalling s).bankA = s.bankA := rfl
@[simp] theorem enterFalling_bankB (s : State) : (enterFalling s).bankB = s.bankB := rfl
@[simp] theorem enterFalling_temp (s : State) : (enterFalling s).temp = s.temp := rfl
@[simp] theorem enterFalling_rails (s : State) : (enterFalling s).rails = { Rails.reset with state := .falling, fallTimer := some s.params.fallTime } := rfl
@[simp] theorem enterFalling_frameTimer (s : State) : (enterFalling s).frameTimer = s.frameTimer := rfl
@[simp] theorem enterFalling_load (s : State) : (enterFalling s).load = s.load := rfl
@[simp] theorem enterFalling_raster (s : State) : (enterFalling s).raster = s.raster := rfl
@[simp] theorem enterFalling_notices (s : State) : (enterFalling s).notices = s.notices := rfl
@[simp] theorem enterFalling_link (s : State) : (enterFalling s).link = s.link := rfl

/-! ### enterHolding: R99 -/

@[simp] theorem enterHolding_pending (s : State) : (enterHolding s).pending = s.pending := rfl
@[simp] theorem enterHolding_phase (s : State) : (enterHolding s).phase = s.phase := rfl
@[simp] theorem enterHolding_powerGood (s : State) : (enterHolding s).powerGood = s.powerGood := rfl
@[simp] theorem enterHolding_startUps (s : State) : (enterHolding s).startUps = s.startUps := rfl
@[simp] theorem enterHolding_params (s : State) : (enterHolding s).params = s.params := rfl
@[simp] theorem enterHolding_pendingPlane (s : State) : (enterHolding s).pendingPlane = s.pendingPlane := rfl
@[simp] theorem enterHolding_target (s : State) : (enterHolding s).target = s.target := rfl
@[simp] theorem enterHolding_shown (s : State) : (enterHolding s).shown = s.shown := rfl
@[simp] theorem enterHolding_queue (s : State) : (enterHolding s).queue = s.queue := rfl
@[simp] theorem enterHolding_idCounter (s : State) : (enterHolding s).idCounter = s.idCounter := rfl
@[simp] theorem enterHolding_slots (s : State) : (enterHolding s).slots = s.slots := rfl
@[simp] theorem enterHolding_halt (s : State) : (enterHolding s).halt = s.halt := rfl
@[simp] theorem enterHolding_bankA (s : State) : (enterHolding s).bankA = s.bankA := rfl
@[simp] theorem enterHolding_bankB (s : State) : (enterHolding s).bankB = s.bankB := rfl
@[simp] theorem enterHolding_temp (s : State) : (enterHolding s).temp = s.temp := rfl
@[simp] theorem enterHolding_rails (s : State) : (enterHolding s).rails = { s.rails with state := .holding, holdTimer := some s.params.holdTime } := rfl
@[simp] theorem enterHolding_frameTimer (s : State) : (enterHolding s).frameTimer = s.frameTimer := rfl
@[simp] theorem enterHolding_load (s : State) : (enterHolding s).load = s.load := rfl
@[simp] theorem enterHolding_raster (s : State) : (enterHolding s).raster = s.raster := rfl
@[simp] theorem enterHolding_notices (s : State) : (enterHolding s).notices = s.notices := rfl
@[simp] theorem enterHolding_link (s : State) : (enterHolding s).link = s.link := rfl

/-! ### railsOn: R98 -/

@[simp] theorem railsOn_pending (s : State) : (railsOn s).pending = s.pending := rfl
@[simp] theorem railsOn_phase (s : State) : (railsOn s).phase = s.phase := rfl
@[simp] theorem railsOn_powerGood (s : State) : (railsOn s).powerGood = s.powerGood := rfl
@[simp] theorem railsOn_startUps (s : State) : (railsOn s).startUps = s.startUps := rfl
@[simp] theorem railsOn_params (s : State) : (railsOn s).params = s.params := rfl
@[simp] theorem railsOn_pendingPlane (s : State) : (railsOn s).pendingPlane = s.pendingPlane := rfl
@[simp] theorem railsOn_target (s : State) : (railsOn s).target = s.target := rfl
@[simp] theorem railsOn_shown (s : State) : (railsOn s).shown = s.shown := rfl
@[simp] theorem railsOn_queue (s : State) : (railsOn s).queue = s.queue := rfl
@[simp] theorem railsOn_idCounter (s : State) : (railsOn s).idCounter = s.idCounter := rfl
@[simp] theorem railsOn_slots (s : State) : (railsOn s).slots = s.slots := rfl
@[simp] theorem railsOn_halt (s : State) : (railsOn s).halt = s.halt := rfl
@[simp] theorem railsOn_bankA (s : State) : (railsOn s).bankA = s.bankA := rfl
@[simp] theorem railsOn_bankB (s : State) : (railsOn s).bankB = s.bankB := rfl
@[simp] theorem railsOn_temp (s : State) : (railsOn s).temp = s.temp := rfl
@[simp] theorem railsOn_rails (s : State) : (railsOn s).rails = { Rails.reset with state := .on, fastFall := s.rails.fastFall } := rfl
@[simp] theorem railsOn_frameTimer (s : State) : (railsOn s).frameTimer = s.frameTimer := rfl
@[simp] theorem railsOn_load (s : State) : (railsOn s).load = s.load := rfl
@[simp] theorem railsOn_raster (s : State) : (railsOn s).raster = s.raster := rfl
@[simp] theorem railsOn_notices (s : State) : (railsOn s).notices = s.notices := rfl
@[simp] theorem railsOn_link (s : State) : (railsOn s).link = s.link := rfl

/-! ### openLoad: R117 -/

@[simp] theorem openLoad_pending (w : Region) (o : Fin 8) (s : State) : (openLoad w o s).pending = s.pending := rfl
@[simp] theorem openLoad_phase (w : Region) (o : Fin 8) (s : State) : (openLoad w o s).phase = s.phase := rfl
@[simp] theorem openLoad_powerGood (w : Region) (o : Fin 8) (s : State) : (openLoad w o s).powerGood = s.powerGood := rfl
@[simp] theorem openLoad_startUps (w : Region) (o : Fin 8) (s : State) : (openLoad w o s).startUps = s.startUps := rfl
@[simp] theorem openLoad_params (w : Region) (o : Fin 8) (s : State) : (openLoad w o s).params = s.params := rfl
@[simp] theorem openLoad_pendingPlane (w : Region) (o : Fin 8) (s : State) : (openLoad w o s).pendingPlane = s.pendingPlane := rfl
@[simp] theorem openLoad_target (w : Region) (o : Fin 8) (s : State) : (openLoad w o s).target = s.target := rfl
@[simp] theorem openLoad_shown (w : Region) (o : Fin 8) (s : State) : (openLoad w o s).shown = s.shown := rfl
@[simp] theorem openLoad_queue (w : Region) (o : Fin 8) (s : State) : (openLoad w o s).queue = s.queue := rfl
@[simp] theorem openLoad_idCounter (w : Region) (o : Fin 8) (s : State) : (openLoad w o s).idCounter = s.idCounter := rfl
@[simp] theorem openLoad_slots (w : Region) (o : Fin 8) (s : State) : (openLoad w o s).slots = s.slots := rfl
@[simp] theorem openLoad_halt (w : Region) (o : Fin 8) (s : State) : (openLoad w o s).halt = s.halt := rfl
@[simp] theorem openLoad_bankA (w : Region) (o : Fin 8) (s : State) : (openLoad w o s).bankA = s.bankA := rfl
@[simp] theorem openLoad_bankB (w : Region) (o : Fin 8) (s : State) : (openLoad w o s).bankB = s.bankB := rfl
@[simp] theorem openLoad_temp (w : Region) (o : Fin 8) (s : State) : (openLoad w o s).temp = s.temp := rfl
@[simp] theorem openLoad_rails (w : Region) (o : Fin 8) (s : State) : (openLoad w o s).rails = s.rails := rfl
@[simp] theorem openLoad_frameTimer (w : Region) (o : Fin 8) (s : State) : (openLoad w o s).frameTimer = s.frameTimer := rfl
@[simp] theorem openLoad_load (w : Region) (o : Fin 8) (s : State) : (openLoad w o s).load = some (newSession w o) := rfl
@[simp] theorem openLoad_raster (w : Region) (o : Fin 8) (s : State) : (openLoad w o s).raster = s.raster := rfl
@[simp] theorem openLoad_notices (w : Region) (o : Fin 8) (s : State) : (openLoad w o s).notices = s.notices := rfl
@[simp] theorem openLoad_link (w : Region) (o : Fin 8) (s : State) : (openLoad w o s).link = s.link := rfl

/-! ### straddleEnds: R185 -/

@[simp] theorem straddleEnds_pending (s : State) : (straddleEnds s).pending = s.pending := rfl
@[simp] theorem straddleEnds_phase (s : State) : (straddleEnds s).phase = s.phase := rfl
@[simp] theorem straddleEnds_powerGood (s : State) : (straddleEnds s).powerGood = s.powerGood := rfl
@[simp] theorem straddleEnds_startUps (s : State) : (straddleEnds s).startUps = s.startUps := rfl
@[simp] theorem straddleEnds_params (s : State) : (straddleEnds s).params = s.params := rfl
@[simp] theorem straddleEnds_pendingPlane (s : State) : (straddleEnds s).pendingPlane = s.pendingPlane := rfl
@[simp] theorem straddleEnds_target (s : State) : (straddleEnds s).target = s.target := rfl
@[simp] theorem straddleEnds_shown (s : State) : (straddleEnds s).shown = s.shown := rfl
@[simp] theorem straddleEnds_queue (s : State) : (straddleEnds s).queue = s.queue := rfl
@[simp] theorem straddleEnds_idCounter (s : State) : (straddleEnds s).idCounter = s.idCounter := rfl
@[simp] theorem straddleEnds_slots (s : State) : (straddleEnds s).slots = s.slots := rfl
@[simp] theorem straddleEnds_halt (s : State) : (straddleEnds s).halt = s.halt := rfl
@[simp] theorem straddleEnds_bankA (s : State) : (straddleEnds s).bankA = s.bankA := rfl
@[simp] theorem straddleEnds_bankB (s : State) : (straddleEnds s).bankB = s.bankB := rfl
@[simp] theorem straddleEnds_temp (s : State) : (straddleEnds s).temp = s.temp := rfl
@[simp] theorem straddleEnds_rails (s : State) : (straddleEnds s).rails = s.rails := rfl
@[simp] theorem straddleEnds_frameTimer (s : State) : (straddleEnds s).frameTimer = s.frameTimer := rfl
@[simp] theorem straddleEnds_load (s : State) : (straddleEnds s).load = s.load := rfl
@[simp] theorem straddleEnds_raster (s : State) : (straddleEnds s).raster = s.raster := rfl
@[simp] theorem straddleEnds_notices (s : State) : (straddleEnds s).notices = s.notices := rfl
@[simp] theorem straddleEnds_link_receiver (s : State) : (straddleEnds s).link.receiver = s.link.receiver := rfl
@[simp] theorem straddleEnds_link_sessionOpen (s : State) : (straddleEnds s).link.sessionOpen = s.link.sessionOpen := rfl
@[simp] theorem straddleEnds_link_resetCause (s : State) : (straddleEnds s).link.resetCause = s.link.resetCause := rfl
@[simp] theorem straddleEnds_link_table (s : State) : (straddleEnds s).link.table = s.link.table := rfl
@[simp] theorem straddleEnds_link_replies (s : State) : (straddleEnds s).link.replies = s.link.replies := rfl
@[simp] theorem straddleEnds_link_cache (s : State) : (straddleEnds s).link.cache = s.link.cache := rfl
@[simp] theorem straddleEnds_link_counters (s : State) : (straddleEnds s).link.counters = s.link.counters := rfl
@[simp] theorem straddleEnds_link_transmitter (s : State) : (straddleEnds s).link.transmitter = s.link.transmitter := rfl
@[simp] theorem straddleEnds_link_lineRate (s : State) : (straddleEnds s).link.lineRate = s.link.lineRate := rfl
@[simp] theorem straddleEnds_link_restartTaken (s : State) : (straddleEnds s).link.restartTaken = s.link.restartTaken := rfl
@[simp] theorem straddleEnds_link_straddling (s : State) : (straddleEnds s).link.straddling = false := rfl

/-! ### receiverAtStartUpEnd: R185 -/

@[simp] theorem receiverAtStartUpEnd_pending (s : State) : (receiverAtStartUpEnd s).pending = s.pending := rfl
@[simp] theorem receiverAtStartUpEnd_phase (s : State) : (receiverAtStartUpEnd s).phase = s.phase := rfl
@[simp] theorem receiverAtStartUpEnd_powerGood (s : State) : (receiverAtStartUpEnd s).powerGood = s.powerGood := rfl
@[simp] theorem receiverAtStartUpEnd_startUps (s : State) : (receiverAtStartUpEnd s).startUps = s.startUps + 1 := rfl
@[simp] theorem receiverAtStartUpEnd_params (s : State) : (receiverAtStartUpEnd s).params = s.params := rfl
@[simp] theorem receiverAtStartUpEnd_pendingPlane (s : State) : (receiverAtStartUpEnd s).pendingPlane = s.pendingPlane := rfl
@[simp] theorem receiverAtStartUpEnd_target (s : State) : (receiverAtStartUpEnd s).target = s.target := rfl
@[simp] theorem receiverAtStartUpEnd_shown (s : State) : (receiverAtStartUpEnd s).shown = s.shown := rfl
@[simp] theorem receiverAtStartUpEnd_queue (s : State) : (receiverAtStartUpEnd s).queue = s.queue := rfl
@[simp] theorem receiverAtStartUpEnd_idCounter (s : State) : (receiverAtStartUpEnd s).idCounter = s.idCounter := rfl
@[simp] theorem receiverAtStartUpEnd_slots (s : State) : (receiverAtStartUpEnd s).slots = s.slots := rfl
@[simp] theorem receiverAtStartUpEnd_halt (s : State) : (receiverAtStartUpEnd s).halt = s.halt := rfl
@[simp] theorem receiverAtStartUpEnd_bankA (s : State) : (receiverAtStartUpEnd s).bankA = s.bankA := rfl
@[simp] theorem receiverAtStartUpEnd_bankB (s : State) : (receiverAtStartUpEnd s).bankB = s.bankB := rfl
@[simp] theorem receiverAtStartUpEnd_temp (s : State) : (receiverAtStartUpEnd s).temp = s.temp := rfl
@[simp] theorem receiverAtStartUpEnd_rails (s : State) : (receiverAtStartUpEnd s).rails = s.rails := rfl
@[simp] theorem receiverAtStartUpEnd_frameTimer (s : State) : (receiverAtStartUpEnd s).frameTimer = s.frameTimer := rfl
@[simp] theorem receiverAtStartUpEnd_load (s : State) : (receiverAtStartUpEnd s).load = s.load := rfl
@[simp] theorem receiverAtStartUpEnd_raster (s : State) : (receiverAtStartUpEnd s).raster = s.raster := rfl
@[simp] theorem receiverAtStartUpEnd_notices (s : State) : (receiverAtStartUpEnd s).notices = s.notices := rfl
@[simp] theorem receiverAtStartUpEnd_link_receiver (s : State) : (receiverAtStartUpEnd s).link.receiver = .hunt := rfl
@[simp] theorem receiverAtStartUpEnd_link_sessionOpen (s : State) : (receiverAtStartUpEnd s).link.sessionOpen = s.link.sessionOpen := rfl
@[simp] theorem receiverAtStartUpEnd_link_resetCause (s : State) : (receiverAtStartUpEnd s).link.resetCause = s.link.resetCause := rfl
@[simp] theorem receiverAtStartUpEnd_link_table (s : State) : (receiverAtStartUpEnd s).link.table = s.link.table := rfl
@[simp] theorem receiverAtStartUpEnd_link_replies (s : State) : (receiverAtStartUpEnd s).link.replies = s.link.replies := rfl
@[simp] theorem receiverAtStartUpEnd_link_cache (s : State) : (receiverAtStartUpEnd s).link.cache = s.link.cache := rfl
@[simp] theorem receiverAtStartUpEnd_link_counters (s : State) : (receiverAtStartUpEnd s).link.counters = s.link.counters := rfl
@[simp] theorem receiverAtStartUpEnd_link_transmitter (s : State) : (receiverAtStartUpEnd s).link.transmitter = s.link.transmitter := rfl
@[simp] theorem receiverAtStartUpEnd_link_lineRate (s : State) : (receiverAtStartUpEnd s).link.lineRate = s.link.lineRate := rfl
@[simp] theorem receiverAtStartUpEnd_link_restartTaken (s : State) : (receiverAtStartUpEnd s).link.restartTaken = s.link.restartTaken := rfl
@[simp] theorem receiverAtStartUpEnd_link_straddling (s : State) : (receiverAtStartUpEnd s).link.straddling = Config.characterInProgress s.startUps := rfl

/-! ### startConversion: R83 -/

@[simp] theorem startConversion_pending (s : State) : (startConversion s).pending = s.pending := rfl
@[simp] theorem startConversion_phase (s : State) : (startConversion s).phase = s.phase := rfl
@[simp] theorem startConversion_powerGood (s : State) : (startConversion s).powerGood = s.powerGood := rfl
@[simp] theorem startConversion_startUps (s : State) : (startConversion s).startUps = s.startUps := rfl
@[simp] theorem startConversion_params (s : State) : (startConversion s).params = s.params := rfl
@[simp] theorem startConversion_pendingPlane (s : State) : (startConversion s).pendingPlane = s.pendingPlane := rfl
@[simp] theorem startConversion_target (s : State) : (startConversion s).target = s.target := rfl
@[simp] theorem startConversion_shown (s : State) : (startConversion s).shown = s.shown := rfl
@[simp] theorem startConversion_queue (s : State) : (startConversion s).queue = s.queue := rfl
@[simp] theorem startConversion_idCounter (s : State) : (startConversion s).idCounter = s.idCounter := rfl
@[simp] theorem startConversion_slots (s : State) : (startConversion s).slots = s.slots := rfl
@[simp] theorem startConversion_halt (s : State) : (startConversion s).halt = s.halt := rfl
@[simp] theorem startConversion_bankA (s : State) : (startConversion s).bankA = s.bankA := rfl
@[simp] theorem startConversion_bankB (s : State) : (startConversion s).bankB = s.bankB := rfl
@[simp] theorem startConversion_temp (s : State) : (startConversion s).temp = { s.temp with converting := true, nextStart := some s.params.samplePeriod } := rfl
@[simp] theorem startConversion_rails (s : State) : (startConversion s).rails = s.rails := rfl
@[simp] theorem startConversion_frameTimer (s : State) : (startConversion s).frameTimer = s.frameTimer := rfl
@[simp] theorem startConversion_load (s : State) : (startConversion s).load = s.load := rfl
@[simp] theorem startConversion_raster (s : State) : (startConversion s).raster = s.raster := rfl
@[simp] theorem startConversion_notices (s : State) : (startConversion s).notices = s.notices := rfl
@[simp] theorem startConversion_link (s : State) : (startConversion s).link = s.link := rfl

end Sys2Proof.Machine
end

