-- ==== Sys2Proof/Laws/Frames.lean ====
section
/-! SUPPORT. What the shared operations can do: the frames of the Drive Table's and the Rail Sequencer's operations, the
banks, the Notice Queue, the taking of an entry by the dispatcher, and the Request Table. -/

namespace Sys2Proof.Machine

/-! ### Banks -/

theorem bankAt_setBank (bank c : BankId) (v : Bank) (s : State) :
    bankAt (setBank bank v s) c = if c = bank then v else bankAt s c := by
  cases bank <;> cases c <;> rfl

@[simp] theorem bankAt_setBank_same (bank : BankId) (v : Bank) (s : State) : bankAt (setBank bank v s) bank = v := by
  simp [bankAt_setBank]

@[simp] theorem bankAt_setBank_other (bank : BankId) (v : Bank) (s : State) :
    bankAt (setBank bank v s) (otherBank bank) = bankAt s (otherBank bank) := by
  cases bank <;> rfl

/-- A bank that takes a value changes the two banks alone. -/
theorem setBank_frame (bank : BankId) (v : Bank) (s : State) :
    setBank bank v s = { s with bankA := (setBank bank v s).bankA, bankB := (setBank bank v s).bankB } := by
  cases bank <;> rfl

/-! ### Notices -/

/-- R168: an offer keeps the credit and the sequence counter. -/
@[simp] theorem offerTo_credit (q : NoticeQueue) (n : Notice) : (offerTo q n).credit = q.credit := by
  unfold offerTo; split <;> rfl

@[simp] theorem offerTo_seqCounter (q : NoticeQueue) (n : Notice) : (offerTo q n).seqCounter = q.seqCounter := by
  unfold offerTo; split <;> rfl

/-- R166: an offer keeps the capacity. -/
theorem offerTo_length (q : NoticeQueue) (n : Notice) (h : q.items.length ≤ 16) : (offerTo q n).items.length ≤ 16 := by
  unfold offerTo
  split
  · rename_i hl; simp at hl ⊢; omega
  · exact h

/-! ### Immediate answers -/

/-- R161: what an immediate answer does. -/
theorem queueAnswer_cases (q : QueuedReply) (s : State) :
    (s.link.replies.length < 16 ∧ queueAnswer q s = queueReply q s) ∨
      (16 ≤ s.link.replies.length ∧ queueAnswer q s = countNobuf s) := by
  unfold queueAnswer
  by_cases h : s.link.replies.length < 16
  · exact .inl ⟨h, by simp [h]⟩
  · exact .inr ⟨by omega, by simp [h]⟩

/-! ### The frame of the Drive Table -/

/-- Everything but the planes Target and Shown, the Update Queue, the slots, the banks and the Notice Queue is as it was. -/
def driveFrame (s t : State) : Prop :=
  t = { s with target := t.target, shown := t.shown, queue := t.queue, slots := t.slots, bankA := t.bankA, bankB := t.bankB,
               notices := t.notices }

theorem driveFrame_refl (s : State) : driveFrame s s := rfl

theorem driveFrame_trans {s t u : State} (h : driveFrame s t) (k : driveFrame t u) : driveFrame s u := by
  unfold driveFrame at *
  rw [k, h]

theorem driveFrame_foldl {ι : Type} (f : State → ι → State) (h : ∀ s i, driveFrame s (f s i)) (l : List ι) (s : State) :
    driveFrame s (l.foldl f s) := by
  induction l generalizing s with
  | nil => exact driveFrame_refl s
  | cons a l ih => exact driveFrame_trans (h s a) (ih (f s a))

theorem offerNotice_driveFrame (n : Notice) (s : State) : driveFrame s (offerNotice n s) := rfl

theorem setBank_driveFrame (bank : BankId) (v : Bank) (s : State) : driveFrame s (setBank bank v s) := by cases bank <;> rfl

theorem setSlot_driveFrame (i : Fin 8) (x : Slot) (s : State) : driveFrame s (setSlot i x s) := rfl

/-- R51, R77: the end of a slot at its bank. -/
theorem releaseBank_driveFrame (bank : BankId) (s : State) : driveFrame s (releaseBank bank s) := by
  unfold releaseBank
  dsimp only
  split
  · exact driveFrame_trans (setBank_driveFrame _ _ _) (offerNotice_driveFrame _ _)
  · exact setBank_driveFrame _ _ _

/-- R43 to R46: arming. -/
theorem arm_driveFrame (i : Fin 8) (x : Entry) (d : StartData) (s : State) : driveFrame s (arm i x d s) := by
  have h : driveFrame s (setSlot i (.armed (armedUpdate x d (changedPixels (latchTarget x.rect.val d.record.twoLevel s) x.rect.val)))
      (retainBank d.bank (latchTarget x.rect.val d.record.twoLevel s))) :=
    driveFrame_trans (t := latchTarget x.rect.val d.record.twoLevel s) rfl
      (driveFrame_trans (setBank_driveFrame _ _ _) (setSlot_driveFrame _ _ _))
  unfold arm
  dsimp only
  split
  · exact driveFrame_trans h (offerNotice_driveFrame _ _)
  · exact h

/-- R32: an entry taken to start. -/
theorem startEntry_driveFrame (older younger : List Entry) (x : Entry) (s : State) :
    driveFrame s (startEntry older x younger s) := by
  unfold startEntry
  split
  · exact driveFrame_refl s
  · split
    · exact driveFrame_trans (t := { s with queue := older ++ younger }) rfl (arm_driveFrame _ _ _ _)
    · exact driveFrame_trans (t := { s with queue := older ++ younger }) rfl (offerNotice_driveFrame _ _)

theorem evaluateUpTo_driveFrame (n : Nat) (s : State) : driveFrame s (evaluateUpTo n s) := by
  induction n generalizing s with
  | zero => exact driveFrame_refl s
  | succ n ih =>
    unfold evaluateUpTo
    split
    · exact driveFrame_refl s
    · exact driveFrame_trans (startEntry_driveFrame _ _ _ _) (ih _)

/-- R27: an evaluation of starts. -/
theorem evaluateStarts_driveFrame (s : State) : driveFrame s (evaluateStarts s) := evaluateUpTo_driveFrame _ s

theorem completeSlot_driveFrame (i : Fin 8) (u : Update) (s : State) : driveFrame s (completeSlot i u s) :=
  driveFrame_trans
    (t := offerNotice (.updateEnded u.id .done u.frames u.changed) (setSlot i .free (showTarget u.rect.val s))) rfl
    (releaseBank_driveFrame _ _)

theorem clearSlot_driveFrame (i : Fin 8) (s : State) : driveFrame s (clearSlot i s) := by
  unfold clearSlot; split <;> rfl

theorem abortSlot_driveFrame (result : EndResult) (s : State) (i : Fin 8) : driveFrame s (abortSlot result s i) := by
  unfold abortSlot
  split
  · exact driveFrame_refl s
  · exact driveFrame_trans (clearSlot_driveFrame i s)
      (driveFrame_trans (offerNotice_driveFrame _ _) (releaseBank_driveFrame _ _))

/-- R52: the abort of every active slot. -/
theorem abortAll_driveFrame (result : EndResult) (s : State) : driveFrame s (abortAll result s) :=
  driveFrame_foldl _ (fun s i => abortSlot_driveFrame result s i) _ s

theorem abortIfArmed_driveFrame (s : State) (i : Fin 8) : driveFrame s (abortIfArmed s i) := by
  unfold abortIfArmed
  split
  · exact driveFrame_refl s
  · exact abortSlot_driveFrame _ s i
  · exact driveFrame_refl s

/-- R54: the abort of every ARMED slot. -/
theorem abortArmed_driveFrame (s : State) : driveFrame s (abortArmed s) :=
  driveFrame_foldl _ abortIfArmed_driveFrame _ s

theorem abandonSlot_driveFrame (s : State) (i : Fin 8) : driveFrame s (abandonSlot s i) := by
  unfold abandonSlot
  split
  · exact driveFrame_refl s
  · exact driveFrame_trans (clearSlot_driveFrame i s) (setBank_driveFrame _ _ _)

/-- R61: the abort of every slot by a Restart. -/
theorem abandonAll_driveFrame (s : State) : driveFrame s (abandonAll s) :=
  driveFrame_foldl _ abandonSlot_driveFrame _ s

/-- R33: the flush. -/
theorem flushQueue_driveFrame (s : State) : driveFrame s (flushQueue s) :=
  driveFrame_trans (t := { s with queue := [] }) rfl (driveFrame_foldl _ (fun _ _ => offerNotice_driveFrame _ _) _ _)

theorem advanceSlot_driveFrame (s : State) (i : Fin 8) : driveFrame s (advanceSlot s i) := by
  unfold advanceSlot
  split
  · exact driveFrame_refl s
  · exact setSlot_driveFrame _ _ _
  · split
    · exact completeSlot_driveFrame _ _ _
    · exact setSlot_driveFrame _ _ _

/-! ### Fields an evaluation of starts leaves -/

@[simp] theorem evaluateStarts_pending (s : State) : (evaluateStarts s).pending = s.pending := by
  rw [evaluateStarts_driveFrame s]
@[simp] theorem evaluateStarts_phase (s : State) : (evaluateStarts s).phase = s.phase := by
  rw [evaluateStarts_driveFrame s]
@[simp] theorem evaluateStarts_powerGood (s : State) : (evaluateStarts s).powerGood = s.powerGood := by
  rw [evaluateStarts_driveFrame s]
@[simp] theorem evaluateStarts_params (s : State) : (evaluateStarts s).params = s.params := by
  rw [evaluateStarts_driveFrame s]
@[simp] theorem evaluateStarts_pendingPlane (s : State) : (evaluateStarts s).pendingPlane = s.pendingPlane := by
  rw [evaluateStarts_driveFrame s]
@[simp] theorem evaluateStarts_idCounter (s : State) : (evaluateStarts s).idCounter = s.idCounter := by
  rw [evaluateStarts_driveFrame s]
@[simp] theorem evaluateStarts_halt (s : State) : (evaluateStarts s).halt = s.halt := by
  rw [evaluateStarts_driveFrame s]
@[simp] theorem evaluateStarts_temp (s : State) : (evaluateStarts s).temp = s.temp := by
  rw [evaluateStarts_driveFrame s]
@[simp] theorem evaluateStarts_rails (s : State) : (evaluateStarts s).rails = s.rails := by
  rw [evaluateStarts_driveFrame s]
@[simp] theorem evaluateStarts_frameTimer (s : State) : (evaluateStarts s).frameTimer = s.frameTimer := by
  rw [evaluateStarts_driveFrame s]
@[simp] theorem evaluateStarts_load (s : State) : (evaluateStarts s).load = s.load := by
  rw [evaluateStarts_driveFrame s]
@[simp] theorem evaluateStarts_raster (s : State) : (evaluateStarts s).raster = s.raster := by
  rw [evaluateStarts_driveFrame s]
@[simp] theorem evaluateStarts_link (s : State) : (evaluateStarts s).link = s.link := by
  rw [evaluateStarts_driveFrame s]

/-! ### The frame of the rails -/

/-- Everything but what the drive frame leaves open, the rails, the Frame Timer, the halt state, the Request Table and
the reply queue is as it was. -/
def railsFrame (s t : State) : Prop :=
  t = { s with target := t.target, shown := t.shown, queue := t.queue, slots := t.slots, bankA := t.bankA, bankB := t.bankB,
               notices := t.notices, rails := t.rails, frameTimer := t.frameTimer, halt := t.halt,
               link := { s.link with table := t.link.table, replies := t.link.replies } }

theorem railsFrame_refl (s : State) : railsFrame s s := rfl

theorem railsFrame_trans {s t u : State} (h : railsFrame s t) (k : railsFrame t u) : railsFrame s u := by
  unfold railsFrame at *
  rw [k, h]

theorem railsFrame_of_driveFrame {s t : State} (h : driveFrame s t) : railsFrame s t := by
  unfold driveFrame railsFrame at *
  rw [h]

theorem haltedIfIdle_railsFrame (s : State) : railsFrame s (haltedIfIdle s) := by
  unfold haltedIfIdle; split <;> rfl

/-- R56: what the end of a halt does. -/
theorem haltedIfIdle_cases (s : State) :
    (s.halt = .halting ∧ demand s = false ∧ haltedIfIdle s = finishWork .halt .ok [] { s with halt := .halted }) ∨
      (¬ (s.halt = .halting ∧ demand s = false) ∧ haltedIfIdle s = s) := by
  unfold haltedIfIdle
  by_cases h : s.halt = .halting ∧ demand s = false
  · exact .inl ⟨h.1, h.2, by rw [if_pos h]⟩
  · exact .inr ⟨h, by rw [if_neg h]⟩

theorem advanceSlots_railsFrame (s : State) : railsFrame s (advanceSlots s) := by
  unfold advanceSlots
  split
  · exact railsFrame_of_driveFrame (driveFrame_foldl _ advanceSlot_driveFrame _ s)
  · exact railsFrame_trans (railsFrame_of_driveFrame (abortAll_driveFrame _ s)) (haltedIfIdle_railsFrame _)
  · exact railsFrame_refl s

theorem demandEndsInOn_railsFrame (s : State) : railsFrame s (demandEndsInOn s) := by
  unfold demandEndsInOn; dsimp only; split <;> rfl

theorem judgeDemandEnd_railsFrame (s : State) : railsFrame s (judgeDemandEnd s) := by
  unfold judgeDemandEnd
  split
  · exact demandEndsInOn_railsFrame s
  · exact railsFrame_refl s

/-- R108: a frame boundary. -/
theorem deliverBoundary_railsFrame (s : State) : railsFrame s (deliverBoundary s) :=
  railsFrame_trans (advanceSlots_railsFrame s)
    (railsFrame_trans (railsFrame_of_driveFrame (evaluateStarts_driveFrame _))
      (railsFrame_trans (t := scheduleBoundary (evaluateStarts (advanceSlots s))) rfl (judgeDemandEnd_railsFrame _)))

/-- R98: entry into ON. -/
theorem enterOn_railsFrame (s : State) : railsFrame s (enterOn s) := by
  unfold enterOn
  split
  · exact railsFrame_trans (t := railsOn s) rfl (deliverBoundary_railsFrame _)
  · exact railsFrame_trans (t := railsOn s) rfl (demandEndsInOn_railsFrame _)

/-- R96: entry into RISING. -/
theorem enterRising_railsFrame (s : State) : railsFrame s (enterRising s) := by
  unfold enterRising
  split
  · exact railsFrame_trans (t := railsRising s) rfl (enterOn_railsFrame _)
  · rfl

theorem demandAppears_railsFrame (s : State) : railsFrame s (demandAppears s) := by
  unfold demandAppears
  split
  · exact enterRising_railsFrame s
  · exact railsFrame_refl s
  · exact railsFrame_refl s
  · exact enterOn_railsFrame s
  · exact railsFrame_refl s
  · exact railsFrame_refl s

/-- R94: an evaluation away from a boundary. -/
theorem evaluate_railsFrame (s : State) : railsFrame s (evaluate s) := by
  unfold evaluate
  split
  · exact railsFrame_trans (railsFrame_of_driveFrame (evaluateStarts_driveFrame s)) (demandAppears_railsFrame _)
  · exact railsFrame_of_driveFrame (evaluateStarts_driveFrame s)

/-- R103: entry into FAULT. -/
theorem enterFault_railsFrame (cause : FaultCause) (s : State) : railsFrame s (enterFault cause s) := by
  unfold enterFault
  exact railsFrame_trans (t := offerNotice (.railFault cause s.rails.state)
      { s with rails := { Rails.reset with state := .fault, faultCause := some cause }, frameTimer := .stopped }) rfl
    (railsFrame_trans (railsFrame_of_driveFrame (abortAll_driveFrame _ _)) (haltedIfIdle_railsFrame _))

/-- R105: a fast-fall request. -/
theorem fastFallRequest_railsFrame (s : State) : railsFrame s (fastFallRequest s) := by
  unfold fastFallRequest; split <;> rfl

/-! ### Fields an evaluation leaves -/

@[simp] theorem evaluate_pending (s : State) : (evaluate s).pending = s.pending := by rw [evaluate_railsFrame s]
@[simp] theorem evaluate_phase (s : State) : (evaluate s).phase = s.phase := by rw [evaluate_railsFrame s]
@[simp] theorem evaluate_powerGood (s : State) : (evaluate s).powerGood = s.powerGood := by rw [evaluate_railsFrame s]
@[simp] theorem evaluate_params (s : State) : (evaluate s).params = s.params := by rw [evaluate_railsFrame s]
@[simp] theorem evaluate_pendingPlane (s : State) : (evaluate s).pendingPlane = s.pendingPlane := by
  rw [evaluate_railsFrame s]
@[simp] theorem evaluate_idCounter (s : State) : (evaluate s).idCounter = s.idCounter := by rw [evaluate_railsFrame s]
@[simp] theorem evaluate_temp (s : State) : (evaluate s).temp = s.temp := by rw [evaluate_railsFrame s]
@[simp] theorem evaluate_load (s : State) : (evaluate s).load = s.load := by rw [evaluate_railsFrame s]
@[simp] theorem evaluate_raster (s : State) : (evaluate s).raster = s.raster := by rw [evaluate_railsFrame s]

/-! ### The dispatcher -/

/-- R158: what a taking does: nothing, or the request on the entry taken. -/
theorem dispatch_cases (code : RequestCode) (run : Request → State → State) (s : State) :
    dispatch code run s = s ∨ ∃ r, takes s code r ∧ dispatch code run s = run r s := by
  unfold dispatch
  split
  · exact .inl rfl
  · rename_i r hr
    split
    · rename_i hc; exact .inr ⟨r, ⟨hr, hc⟩, rfl⟩
    · exact .inl rfl

/-- R158: a taking of an entry. -/
theorem dispatch_of_takes {s : State} {code : RequestCode} {r : Request} (run : Request → State → State)
    (h : takes s code r) : dispatch code run s = run r s := by
  unfold dispatch
  rw [h.1]
  simp [h.2]

/-- R158: no taking without an entry to take. -/
theorem dispatch_of_none {s : State} (code : RequestCode) (run : Request → State → State) (h : nextRequest s = none) :
    dispatch code run s = s := by
  unfold dispatch; rw [h]

/-- R158: the entry taken is the oldest WAITING one, not held, in normal running outside the Restart interval. -/
theorem nextRequest_eq_some {s : State} {r : Request} (h : nextRequest s = some r) :
    s.phase = .running ∧ s.link.restartTaken = false ∧ oldestWaiting s = some r ∧ held s r = false := by
  unfold nextRequest at h
  split at h
  · rename_i hp
    split at h
    · cases h
    · rename_i q hq
      split at h
      · cases h
      · rename_i hh
        cases h
        exact ⟨hp.1, hp.2, hq, by simpa using hh⟩
  · cases h

/-- R158: where the entry taken stands in the Request Table. -/
theorem oldestWaiting_split {s : State} {r : Request} (h : oldestWaiting s = some r) :
    r.state = .waiting ∧ ∃ before after, s.link.table = before ++ r :: after ∧ ∀ q ∈ before, q.state ≠ .waiting := by
  obtain ⟨hw, before, after, ht, hb⟩ := List.find?_eq_some_iff_append.mp h
  exact ⟨by simpa [isWaiting] using hw, before, after, ht, fun q hq => by simpa [isWaiting] using hb q hq⟩

/-! ### The Request Table -/

/-- R154, R158: the first entry that passes the test takes the state; the entries before and after it stay. -/
theorem markFirst_split (p : Request → Bool) (st : RequestState) (before after : List Request) (r : Request)
    (hb : ∀ q ∈ before, p q = false) (hr : p r = true) :
    markFirst p st (before ++ r :: after) = before ++ { r with state := st, payload := [] } :: after := by
  induction before with
  | nil => simp [markFirst, hr]
  | cons b t ih =>
    have h1 : p b = false := hb b List.mem_cons_self
    simp only [List.cons_append, markFirst, h1]
    rw [ih fun q hq => hb q (List.mem_cons_of_mem _ hq)]
    simp

@[simp] theorem markFirst_length (p : Request → Bool) (st : RequestState) (t : List Request) :
    (markFirst p st t).length = t.length := by
  induction t with
  | nil => rfl
  | cons r t ih => unfold markFirst; split <;> simp [ih]

theorem finishTable_length (work : Work) (t : List Request) : (finishTable work t).length ≤ t.length := by
  induction t with
  | nil => exact Nat.le_refl _
  | cons r t ih =>
    unfold finishTable
    split
    · split <;> simp <;> omega
    · simp; omega

end Sys2Proof.Machine
end

