-- ==== Sys2Proof/Laws/Drive.lean ====
section
/-! SUPPORT. What the shared operations of the Drive Table and the Update Queue do to the queue, the banks and the notices,
each said once. -/

namespace Sys2Proof.Machine

/-! ### The entry taken first -/

/-- R27: past a prefix with nothing startable, the first startable entry is taken with the entries around it. -/
theorem firstStartable_append (s : State) (older acc younger : List Entry) (x : Entry)
    (ho : ∀ (before after : List Entry) (y : Entry), older = before ++ y :: after → startable s (acc ++ before) y = false)
    (hx : startable s (acc ++ older) x = true) :
    firstStartable s acc (older ++ x :: younger) = some (acc ++ older, x, younger) := by
  induction older generalizing acc with
  | nil => simp only [List.append_nil] at hx; simp [firstStartable, hx]
  | cons y t ih =>
    have hy : startable s acc y = false := by simpa using ho [] t y rfl
    simp only [List.cons_append, firstStartable, hy]
    simpa using ih (acc ++ [y]) (fun b a z e => by simpa using ho (y :: b) a z (by simp [e])) (by simpa using hx)

/-- R27: with nothing startable no entry is taken. -/
theorem firstStartable_none (s : State) (es acc : List Entry)
    (h : ∀ (before after : List Entry) (y : Entry), es = before ++ y :: after → startable s (acc ++ before) y = false) :
    firstStartable s acc es = none := by
  induction es generalizing acc with
  | nil => rfl
  | cons y t ih =>
    have hy : startable s acc y = false := by simpa using h [] t y rfl
    simp only [firstStartable, hy]
    exact ih (acc ++ [y]) (fun b a z e => by simpa using h (y :: b) a z (by simp [e]))

/-! ### Arming -/

/-- R43: arming leaves the queue. -/
@[simp] theorem arm_queue (i : Fin 8) (e : Entry) (d : StartData) (s : State) : (arm i e d s).queue = s.queue := by
  unfold arm; dsimp only
  cases h : d.bank <;> split <;> simp [retainBank, setBank]

/-- R63: arming touches no other bank. -/
@[simp] theorem arm_other_bank (i : Fin 8) (e : Entry) (d : StartData) (s : State) :
    bankAt (arm i e d s) (otherBank d.bank) = bankAt s (otherBank d.bank) := by
  unfold arm; dsimp only
  cases h : d.bank <;> split <;> simp [retainBank, setBank, bankAt, otherBank]

/-- R32, R43: an entry taken while a slot is FREE leaves the queue. -/
theorem startEntry_queue (s : State) (older younger : List Entry) (x : Entry) (h : lowestFree s ≠ none) :
    (startEntry older x younger s).queue = older ++ younger := by
  unfold startEntry
  split
  · contradiction
  · split
    · rw [arm_queue]
    · rfl

/-! ### The end of a slot -/

/-- R63, R77: the end of a slot at the banks and the notices: its bank's count falls, a RETIRING bank left without a
slot becomes LOADED and its Bank Retired is offered. -/
theorem releaseBank_eq (bank : BankId) (s : State) :
    releaseBank bank s = { setBank bank (bankReleased (bankAt s bank)) s with
      notices := if bankRetires (bankAt s bank) then offerTo s.notices (.bankRetired bank) else s.notices } := by
  unfold releaseBank
  cases bank <;> dsimp only <;> split <;> rfl

/-- R52: the abort of an active slot: planes and slot cleared, its notice offered, its bank released. -/
theorem abortSlot_of_active {s : State} {i : Fin 8} {u : Update} (result : EndResult) (h : slotUpdate s.slots[i] = some u) :
    abortSlot result s i = releaseBank u.bank
      (offerNotice (.updateEnded u.id result (framesDriven s.slots[i]) u.changed) (clearSlot i s)) := by
  unfold abortSlot; rw [h]

/-- R52: a FREE slot has nothing to abort. -/
theorem abortSlot_of_free {s : State} {i : Fin 8} (result : EndResult) (h : s.slots[i] = .free) :
    abortSlot result s i = s := by
  unfold abortSlot; rw [h]; rfl

/-- R33: a flush empties the queue and offers the notices, oldest entry first, and does nothing else. -/
theorem flushQueue_eq (s : State) : flushQueue s = { s with
    queue := [], notices := (s.queue.map fun x => Notice.updateEnded x.id .cancelled 0 0).foldl offerTo s.notices } := by
  have h : ∀ (es : List Entry) (t : State), es.foldl (fun t x => offerNotice (.updateEnded x.id .cancelled 0 0) t) t =
      { t with notices := (es.map fun x => Notice.updateEnded x.id .cancelled 0 0).foldl offerTo t.notices } := by
    intro es
    induction es with
    | nil => intro t; rfl
    | cons x es ih => intro t; simp only [List.foldl_cons, List.map_cons]; rw [ih]; rfl
  unfold flushQueue
  rw [h]

end Sys2Proof.Machine
end

