-- ==== Sys2Proof/Laws/Image.lean ====
section
/-! SUPPORT. What each part of the structural walk answers when it passes: the bytes it consumed are its value laid out, and
the value keeps the rules (R70 to R74, R193). -/

namespace Sys2Proof.Machine

/-! ### Bytes -/

@[simp] theorem byteOf_of_toNat (b : Byte) : byteOf b.toNat = b := by simp [byteOf]

@[simp] theorem temperatureByte_signedByte (b : Byte) : temperatureByte (signedByte b) = b := by
  simp [temperatureByte, signedByte]

/-- R74: a checked byte that passes is the next byte, and its check finds nothing. -/
theorem walkChecked_ok (judge : Byte → Option Detail) (c c' : Cursor) (b : Byte)
    (h : walkChecked judge c = .ok (b, c')) : c.rest = b :: c'.rest ∧ judge b = none := by
  unfold walkChecked walkByte at h
  cases hr : c.rest with
  | nil => simp [hr] at h
  | cons a t =>
    cases hj : judge a with
    | some d => simp [hr, hj] at h
    | none => simp only [hr, hj] at h; cases h; exact ⟨rfl, hj⟩

/-- R193: the byte of a drive that a byte names is that byte. -/
theorem driveByte_of_driveOf (b : Byte) (d : Drive) (h : driveOf b = some d) : driveByte d = b := by
  unfold driveOf at h
  split at h
  · cases h; simp_all [driveByte]
  · split at h
    · cases h; simp_all [driveByte]
    · split at h
      · cases h; simp_all [driveByte]
      · cases h

/-! ### Phase lists and tables -/

/-- R73: the steps read are the bytes consumed, and every length is 1 to 255. -/
theorem walkSteps_ok (n : Nat) (c c' : Cursor) (steps : List PhaseStep) (h : walkSteps n c = .ok (steps, c')) :
    c.rest = (steps.flatMap fun x => [driveByte x.drive, byteOf x.frames]) ++ c'.rest ∧ steps.length = n ∧
      ∀ x ∈ steps, 1 ≤ x.frames ∧ x.frames ≤ 255 := by
  induction n generalizing c steps with
  | zero => cases h; simp
  | succ n ih =>
    unfold walkSteps at h
    cases h1 : walkByte c with
    | error e => simp only [h1, reduceCtorEq] at h
    | ok p =>
      obtain ⟨d, c1⟩ := p
      cases h2 : driveOf d with
      | none => simp only [h1, h2, reduceCtorEq] at h
      | some drive =>
        cases h3 : walkChecked (fun b => if b = 0 then some .stepLength else none) c1 with
        | error e => simp only [h1, h2, h3, reduceCtorEq] at h
        | ok p =>
          obtain ⟨len, c2⟩ := p
          cases h4 : walkSteps n c2 with
          | error e => simp only [h1, h2, h3, h4, reduceCtorEq] at h
          | ok p =>
            obtain ⟨rest, c3⟩ := p
            simp only [h1, h2, h3, h4] at h
            cases h
            obtain ⟨e1, e2, e3⟩ := ih c2 rest h4
            obtain ⟨e4, e5⟩ := walkChecked_ok _ _ _ _ h3
            have e6 : c.rest = d :: c1.rest := by
              unfold walkByte at h1
              split at h1
              · cases h1
              · rename_i hr; cases h1; exact hr
            have e7 : len.toNat ≠ 0 := fun e => by
              rw [show len = 0 from BitVec.eq_of_toNat_eq e] at e5; cases e5
            refine ⟨by simp [e6, e4, e1, driveByte_of_driveOf d drive h2], by simp [e2], fun x hx => ?_⟩
            rcases List.mem_cons.mp hx with rfl | hx
            · exact ⟨by dsimp only; omega, by have := len.isLt; dsimp only; omega⟩
            · exact e3 x hx

/-- R73: a phase list read is the bytes consumed and keeps the rules. -/
theorem walkPhaseList_ok (frames : Nat) (c c' : Cursor) (steps : List PhaseStep)
    (h : walkPhaseList frames c = .ok (steps, c')) :
    c.rest = phaseListBytes steps ++ c'.rest ∧ phaseListSound frames steps := by
  unfold walkPhaseList at h
  cases h1 : walkChecked (fun b => if b = 0 ∨ 8 < b.toNat then some .stepCount else none) c with
  | error e => simp only [h1, reduceCtorEq] at h
  | ok p =>
    obtain ⟨count, c1⟩ := p
    cases h2 : walkSteps count.toNat c1 with
    | error e => simp only [h1, h2, reduceCtorEq] at h
    | ok p =>
      obtain ⟨rest, c2⟩ := p
      simp only [h1, h2] at h
      split at h
      · cases h
      · rename_i hs
        cases h
        obtain ⟨e1, e2⟩ := walkChecked_ok _ _ _ _ h1
        obtain ⟨e3, e4, e5⟩ := walkSteps_ok _ _ _ _ h2
        have e6 : ¬ (count = 0 ∨ 8 < count.toNat) := fun e => by rw [if_pos e] at e2; cases e2
        have e7 : count.toNat ≠ 0 := fun e => e6 (.inl (BitVec.eq_of_toNat_eq e))
        exact ⟨by simp [phaseListBytes, e1, e3, e4], by omega, by omega, e5, by omega⟩

/-- R73: a transition table read is the bytes consumed, with the lists it should have, each keeping the rules. -/
theorem walkTable_ok (frames n : Nat) (c c' : Cursor) (lists : List (List PhaseStep))
    (h : walkTable frames n c = .ok (lists, c')) :
    c.rest = lists.flatMap phaseListBytes ++ c'.rest ∧ lists.length = n ∧ ∀ steps ∈ lists, phaseListSound frames steps := by
  induction n generalizing c lists with
  | zero => cases h; simp
  | succ n ih =>
    unfold walkTable at h
    cases h1 : walkPhaseList frames c with
    | error e => simp only [h1, reduceCtorEq] at h
    | ok p =>
      obtain ⟨steps, c1⟩ := p
      cases h2 : walkTable frames n c1 with
      | error e => simp only [h1, h2, reduceCtorEq] at h
      | ok p =>
        obtain ⟨rest, c2⟩ := p
        simp only [h1, h2] at h
        cases h
        obtain ⟨e1, e2⟩ := walkPhaseList_ok _ _ _ _ h1
        obtain ⟨e3, e4, e5⟩ := ih c1 rest h2
        exact ⟨by simp [e1, e3], by simp [e4], List.forall_mem_cons.mpr ⟨e2, e5⟩⟩

/-! ### Mode records -/

/-- R72: the frame counts read are the bytes consumed, each 1 to 255. -/
theorem walkFrameCounts_ok (n : Nat) (c c' : Cursor) (counts : List Nat) (h : walkFrameCounts n c = .ok (counts, c')) :
    c.rest = counts.map byteOf ++ c'.rest ∧ counts.length = n ∧ ∀ f ∈ counts, 1 ≤ f ∧ f ≤ 255 := by
  induction n generalizing c counts with
  | zero => cases h; simp
  | succ n ih =>
    unfold walkFrameCounts at h
    cases h1 : walkChecked (fun b => if b = 0 then some .frameCount else none) c with
    | error e => simp only [h1, reduceCtorEq] at h
    | ok p =>
      obtain ⟨b, c1⟩ := p
      cases h2 : walkFrameCounts n c1 with
      | error e => simp only [h1, h2, reduceCtorEq] at h
      | ok p =>
        obtain ⟨rest, c2⟩ := p
        simp only [h1, h2] at h
        cases h
        obtain ⟨e1, e2⟩ := walkChecked_ok _ _ _ _ h1
        obtain ⟨e3, e4, e5⟩ := ih c1 rest h2
        have e6 : b.toNat ≠ 0 := fun e => by rw [show b = 0 from BitVec.eq_of_toNat_eq e] at e2; cases e2
        have e7 := b.isLt
        exact ⟨by simp [e1, e3], by simp [e4], List.forall_mem_cons.mpr ⟨by omega, e5⟩⟩

/-- R72, R73: the transition tables read are the bytes consumed, one for each frame count, each keeping the rules. -/
theorem walkBands_ok (lists : Nat) (counts : List Nat) (c c' : Cursor) (bands : List BandData)
    (h : walkBands lists counts c = .ok (bands, c')) :
    c.rest = bands.flatMap (fun b => b.table.flatMap phaseListBytes) ++ c'.rest ∧ bands.map (·.frames) = counts ∧
      ∀ b ∈ bands, b.table.length = lists ∧ ∀ steps ∈ b.table, phaseListSound b.frames steps := by
  induction counts generalizing c bands with
  | nil => cases h; simp
  | cons f fs ih =>
    unfold walkBands at h
    cases h1 : walkTable f lists c with
    | error e => simp only [h1, reduceCtorEq] at h
    | ok p =>
      obtain ⟨table, c1⟩ := p
      cases h2 : walkBands lists fs c1 with
      | error e => simp only [h1, h2, reduceCtorEq] at h
      | ok p =>
        obtain ⟨rest, c2⟩ := p
        simp only [h1, h2] at h
        cases h
        obtain ⟨e1, e2⟩ := walkTable_ok _ _ _ _ _ h1
        obtain ⟨e3, e4, e5⟩ := ih c1 rest h2
        exact ⟨by simp [e1, e3], by simp [e4], List.forall_mem_cons.mpr ⟨e2, e5⟩⟩

/-- R72: a mode record read is the bytes consumed, keeps the rules, and has an id that no earlier record has. -/
theorem walkMode_ok (bandCount : Nat) (earlier : List Nat) (c c' : Cursor) (m : ModeRecord)
    (h : walkMode bandCount earlier c = .ok (m, c')) :
    c.rest = modeBytes m ++ c'.rest ∧ modeSound bandCount m ∧ m.id ∉ earlier := by
  unfold walkMode at h
  cases h1 : walkChecked (judgeModeId earlier) c with
  | error e => simp only [h1, reduceCtorEq] at h
  | ok p =>
    obtain ⟨id, c1⟩ := p
    cases h2 : walkChecked (fun b => if b = 2 ∨ b = 16 then none else some .levelCount) c1 with
    | error e => simp only [h1, h2, reduceCtorEq] at h
    | ok p =>
      obtain ⟨levels, c2⟩ := p
      cases h3 : walkChecked (fun b => if b = 0 ∨ b = 1 then none else some .rowFlag) c2 with
      | error e => simp only [h1, h2, h3, reduceCtorEq] at h
      | ok p =>
        obtain ⟨flag, c3⟩ := p
        cases h4 : walkFrameCounts bandCount c3 with
        | error e => simp only [h1, h2, h3, h4, reduceCtorEq] at h
        | ok p =>
          obtain ⟨counts, c4⟩ := p
          cases h5 : walkBands (tableLists (decide (levels = 2)) (decide (flag = 1))) counts c4 with
          | error e => simp only [h1, h2, h3, h4, h5, reduceCtorEq] at h
          | ok p =>
            obtain ⟨bands, c5⟩ := p
            simp only [h1, h2, h3, h4, h5] at h
            cases h
            obtain ⟨e1, f1⟩ := walkChecked_ok _ _ _ _ h1
            obtain ⟨e2, f2⟩ := walkChecked_ok _ _ _ _ h2
            obtain ⟨e3, f3⟩ := walkChecked_ok _ _ _ _ h3
            obtain ⟨e4, f4, g4⟩ := walkFrameCounts_ok _ _ _ _ h4
            obtain ⟨e5, f5, g5⟩ := walkBands_ok _ _ _ _ _ h5
            have k2 : (if decide (levels = 2) = true then (2 : Byte) else 16) = levels := by
              by_cases e : levels = 2
              · simp [e]
              · have : levels = 16 := (by simpa using f2 : ¬ levels = 2 → levels = 16) e
                simp [this]
            have k3 : flagByte (decide (flag = 1)) = flag := by
              by_cases e : flag = 1
              · simp [e, flagByte]
              · have : flag = 0 := by
                  by_contra hc
                  rw [if_neg (not_or.mpr ⟨hc, e⟩)] at f3
                  cases f3
                simp [this, flagByte]
            have k1 : ¬ 15 < id.toNat ∧ id.toNat ∉ earlier := by
              unfold judgeModeId at f1
              split at f1
              · cases f1
              · split at f1
                · cases f1
                · exact ⟨‹_›, ‹_›⟩
            refine ⟨?_, ⟨by dsimp only; omega, ?_, fun b hb => ?_⟩, k1.2⟩
            · have k4 : bands.map (fun b => byteOf b.frames) = counts.map byteOf := by rw [← f5, List.map_map]; rfl
              simp only [modeBytes, k2, k3, k4, e1, e2, e3, e4, e5]
              simp
            · rw [← f4, ← f5]; simp
            · have hf := g4 b.frames (f5 ▸ List.mem_map.mpr ⟨b, hb, rfl⟩)
              exact ⟨hf.1, hf.2, g5 b hb⟩

/-- R72: the mode records read are the bytes consumed, keep the rules, and have ids of their own. -/
theorem walkModes_ok (bandCount n : Nat) (earlier : List Nat) (c c' : Cursor) (modes : List ModeRecord)
    (h : walkModes bandCount n earlier c = .ok (modes, c')) :
    c.rest = modes.flatMap modeBytes ++ c'.rest ∧ modes.length = n ∧ (modes.map (·.id)).Nodup ∧
      (∀ m ∈ modes, m.id ∉ earlier) ∧ ∀ m ∈ modes, modeSound bandCount m := by
  induction n generalizing c modes earlier with
  | zero => cases h; simp
  | succ n ih =>
    unfold walkModes at h
    cases h1 : walkMode bandCount earlier c with
    | error e => simp only [h1, reduceCtorEq] at h
    | ok p =>
      obtain ⟨m, c1⟩ := p
      cases h2 : walkModes bandCount n (m.id :: earlier) c1 with
      | error e => simp only [h1, h2, reduceCtorEq] at h
      | ok p =>
        obtain ⟨rest, c2⟩ := p
        simp only [h1, h2] at h
        cases h
        obtain ⟨e1, e2, e3⟩ := walkMode_ok _ _ _ _ _ h1
        obtain ⟨f1, f2, f3, f4, f5⟩ := ih _ c1 rest h2
        refine ⟨by simp [e1, f1], by simp [f2], ?_, List.forall_mem_cons.mpr ⟨e3, fun x hx hc => f4 x hx ?_⟩,
          List.forall_mem_cons.mpr ⟨e2, f5⟩⟩
        · rw [List.map_cons, List.nodup_cons]
          refine ⟨fun hm => ?_, f3⟩
          obtain ⟨x, hx, hid⟩ := List.mem_map.mp hm
          exact f4 x hx (by rw [hid]; exact List.mem_cons_self)
        · exact List.mem_cons_of_mem _ hc

/-! ### The band table -/

/-- R71: the bounds read are the bytes consumed, lie in −40 to +85, and ascend from above the bound before them. -/
theorem walkBounds_ok (n : Nat) (previous : Option Int) (c c' : Cursor) (bounds : List Int)
    (h : walkBounds n previous c = .ok (bounds, c')) :
    c.rest = bounds.map temperatureByte ++ c'.rest ∧ bounds.length = n ∧ (∀ b ∈ bounds, -40 ≤ b ∧ b ≤ 85) ∧
      bounds.Pairwise (· < ·) ∧ ∀ q, previous = some q → ∀ b ∈ bounds, q < b := by
  induction n generalizing c bounds previous with
  | zero => cases h; simp
  | succ n ih =>
    unfold walkBounds at h
    cases h1 : walkChecked (judgeBound previous) c with
    | error e => simp only [h1, reduceCtorEq] at h
    | ok p =>
      obtain ⟨b, c1⟩ := p
      cases h2 : walkBounds n (some (signedByte b)) c1 with
      | error e => simp only [h1, h2, reduceCtorEq] at h
      | ok p =>
        obtain ⟨rest, c2⟩ := p
        simp only [h1, h2] at h
        cases h
        obtain ⟨e1, e2⟩ := walkChecked_ok _ _ _ _ h1
        obtain ⟨f1, f2, f3, f4, f5⟩ := ih _ c1 rest h2
        have hr : ¬ (signedByte b < -40 ∨ 85 < signedByte b) := fun e => by simp [judgeBound, e] at e2
        have hp : ∀ q, previous = some q → q < signedByte b := fun q hq => by
          subst hq
          by_cases hb : signedByte b ≤ q
          · simp [judgeBound, hr, hb] at e2
          · omega
        refine ⟨by simp [e1, f1], by simp [f2], List.forall_mem_cons.mpr ⟨by omega, f3⟩,
          List.pairwise_cons.mpr ⟨f5 _ rfl, f4⟩, fun q hq => List.forall_mem_cons.mpr ⟨hp q hq, fun x hx => ?_⟩⟩
        exact lt_trans (hp q hq) (f5 _ rfl x hx)

end Sys2Proof.Machine
end

