-- ==== Sys2Proof/Laws/Planes.lean ====
section
/-! SUPPORT. The run lists and planes of Machine/Planes.lean: what each operation holds at each position, its length, and
that it keeps the canonical form; two canonical run lists with the same values are the same data. -/

namespace Sys2Proof.Machine

variable {α β γ : Type}

/-! ### Run lists: the value at a position -/

theorem runAt_cons_of_lt (n i : Nat) (v : α) (t : Runs α) (h : i < n) : runAt ((n, v) :: t) i = some v := by
  simp [runAt, h]

theorem runAt_cons_of_le (n i : Nat) (v : α) (t : Runs α) (h : n ≤ i) : runAt ((n, v) :: t) i = runAt t (i - n) := by
  simp [runAt, Nat.not_lt.mpr h]

@[simp] theorem runAt_runCons [DecidableEq α] (n i : Nat) (v : α) (rs : Runs α) :
    runAt (runCons n v rs) i = if i < n then some v else runAt rs (i - n) := by
  unfold runCons
  by_cases hn : n = 0
  · simp [hn]
  · rw [if_neg hn]
    cases rs with
    | nil => simp [runAt]
    | cons a t =>
      obtain ⟨m, w⟩ := a
      by_cases hv : v = w
      · subst hv
        by_cases h1 : i < n
        · simp [runAt, h1, Nat.lt_add_right m h1]
        · by_cases h2 : i < n + m
          · have h3 : i - n < m := by omega
            simp [runAt, h1, h2, h3]
          · have h3 : ¬ i - n < m := by omega
            have h4 : i - (n + m) = i - n - m := by omega
            simp [runAt, h1, h2, h3, h4]
      · simp [hv, runAt]

@[simp] theorem runsLength_runCons [DecidableEq α] (n : Nat) (v : α) (rs : Runs α) :
    runsLength (runCons n v rs) = n + runsLength rs := by
  unfold runCons
  by_cases hn : n = 0
  · simp [hn]
  · rw [if_neg hn]
    cases rs with
    | nil => simp [runsLength]
    | cons a t =>
      obtain ⟨m, w⟩ := a
      by_cases hv : v = w
      · simp [hv, runsLength]; omega
      · simp [hv, runsLength]

theorem runAt_eq_none_iff (rs : Runs α) (i : Nat) : runAt rs i = none ↔ runsLength rs ≤ i := by
  induction rs generalizing i with
  | nil => simp [runAt, runsLength]
  | cons a t ih =>
    obtain ⟨n, v⟩ := a
    by_cases h : i < n
    · simp [runAt, runsLength, h]; omega
    · simp [runAt, runsLength, h, ih]; omega

theorem runAt_isSome_iff (rs : Runs α) (i : Nat) : (runAt rs i).isSome = true ↔ i < runsLength rs := by
  rw [← Option.ne_none_iff_isSome, Ne, runAt_eq_none_iff]; omega

theorem runAt_mem (rs : Runs α) (i : Nat) (v : α) (h : runAt rs i = some v) : ∃ n, (n, v) ∈ rs := by
  induction rs generalizing i with
  | nil => simp [runAt] at h
  | cons a t ih =>
    obtain ⟨n, w⟩ := a
    by_cases hi : i < n
    · simp [runAt, hi] at h; exact ⟨n, by simp [h]⟩
    · simp [runAt, hi] at h
      obtain ⟨m, hm⟩ := ih _ h
      exact ⟨m, List.mem_cons_of_mem _ hm⟩

@[simp] theorem runAt_runTake [DecidableEq α] (k i : Nat) (rs : Runs α) :
    runAt (runTake k rs) i = if i < k then runAt rs i else none := by
  induction rs generalizing k i with
  | nil => simp [runTake, runAt]
  | cons a t ih =>
    obtain ⟨n, v⟩ := a
    by_cases hk : k ≤ n
    · by_cases hi : i < k
      · have : i < n := by omega
        simp [runTake, hk, hi, runAt, this]
      · simp [runTake, hk, hi, runAt]
    · by_cases hi : i < n
      · have : i < k := by omega
        simp [runTake, hk, runAt, hi, this]
      · have : i - n < k - n ↔ i < k := by omega
        simp [runTake, hk, runAt, hi, ih, this]

@[simp] theorem runsLength_runTake [DecidableEq α] (k : Nat) (rs : Runs α) :
    runsLength (runTake k rs) = min k (runsLength rs) := by
  induction rs generalizing k with
  | nil => simp [runTake, runsLength]
  | cons a t ih =>
    obtain ⟨n, v⟩ := a
    by_cases hk : k ≤ n
    · simp [runTake, hk, runsLength]; omega
    · simp [runTake, hk, runsLength, ih]; omega

@[simp] theorem runAt_runDrop (k i : Nat) (rs : Runs α) : runAt (runDrop k rs) i = runAt rs (k + i) := by
  induction rs generalizing k with
  | nil => simp [runDrop, runAt]
  | cons a t ih =>
    obtain ⟨n, v⟩ := a
    by_cases hk : k < n
    · by_cases hi : i < n - k
      · have : k + i < n := by omega
        simp [runDrop, hk, runAt, hi, this]
      · have h1 : ¬ k + i < n := by omega
        have h2 : k + i - n = i - (n - k) := by omega
        simp [runDrop, hk, runAt, hi, h1, h2]
    · have h1 : ¬ k + i < n := by omega
      have h2 : k + i - n = k - n + i := by omega
      simp [runDrop, hk, runAt, h1, h2, ih]

@[simp] theorem runsLength_runDrop (k : Nat) (rs : Runs α) : runsLength (runDrop k rs) = runsLength rs - k := by
  induction rs generalizing k with
  | nil => simp [runDrop, runsLength]
  | cons a t ih =>
    obtain ⟨n, v⟩ := a
    by_cases hk : k < n
    · simp [runDrop, hk, runsLength]; omega
    · simp [runDrop, hk, runsLength, ih]; omega

@[simp] theorem runAt_runAppend [DecidableEq α] (as bs : Runs α) (i : Nat) :
    runAt (runAppend as bs) i = if i < runsLength as then runAt as i else runAt bs (i - runsLength as) := by
  induction as generalizing i with
  | nil => simp [runAppend, runsLength]
  | cons a t ih =>
    obtain ⟨n, v⟩ := a
    by_cases hi : i < n
    · have : i < n + runsLength t := by omega
      simp [runAppend, runsLength, runAt, hi, this]
    · have h1 : i - n < runsLength t ↔ i < n + runsLength t := by omega
      have h2 : i - n - runsLength t = i - (n + runsLength t) := by omega
      simp [runAppend, runsLength, runAt, hi, ih, h1, h2]

@[simp] theorem runsLength_runAppend [DecidableEq α] (as bs : Runs α) :
    runsLength (runAppend as bs) = runsLength as + runsLength bs := by
  induction as with
  | nil => simp [runAppend, runsLength]
  | cons a t ih => obtain ⟨n, v⟩ := a; simp [runAppend, runsLength, ih]; omega

@[simp] theorem runAt_runMap [DecidableEq β] (f : α → β) (rs : Runs α) (i : Nat) :
    runAt (runMap f rs) i = (runAt rs i).map f := by
  induction rs generalizing i with
  | nil => simp [runMap, runAt]
  | cons a t ih =>
    obtain ⟨n, v⟩ := a
    by_cases hi : i < n
    · simp [runMap, runAt, hi]
    · simp [runMap, runAt, hi, ih]

@[simp] theorem runsLength_runMap [DecidableEq β] (f : α → β) (rs : Runs α) :
    runsLength (runMap f rs) = runsLength rs := by
  induction rs with
  | nil => simp [runMap, runsLength]
  | cons a t ih => obtain ⟨n, v⟩ := a; simp [runMap, runsLength, ih]

@[simp] theorem runsLength_runZip [DecidableEq β] [DecidableEq γ] (f : α → β → γ) (as : Runs α) (bs : Runs β) :
    runsLength (runZip f as bs) = min (runsLength as) (runsLength bs) := by
  induction as generalizing bs with
  | nil => simp [runZip, runsLength]
  | cons a t ih => obtain ⟨n, v⟩ := a; simp [runZip, runsLength, ih]; omega

@[simp] theorem runAt_runZip [DecidableEq β] [DecidableEq γ] (f : α → β → γ) (as : Runs α) (bs : Runs β) (i : Nat) :
    runAt (runZip f as bs) i = (runAt as i).bind fun a => (runAt bs i).map (f a) := by
  induction as generalizing bs i with
  | nil => simp [runZip, runAt]
  | cons a t ih =>
    obtain ⟨n, v⟩ := a
    by_cases hi : i < n
    · simp only [runZip, runAt_runAppend, runsLength_runMap, runsLength_runTake, runAt_cons_of_lt _ _ _ _ hi]
      by_cases hb : i < runsLength bs
      · have : i < min n (runsLength bs) := by omega
        simp [this, hi]
      · have h1 : ¬ i < min n (runsLength bs) := by omega
        have h2 : runAt bs i = none := (runAt_eq_none_iff bs i).mpr (by omega)
        have h3 : runAt bs (n + (i - min n (runsLength bs))) = none := (runAt_eq_none_iff bs _).mpr (by omega)
        rw [if_neg h1, ih, runAt_runDrop, h3, h2]
        cases runAt t (i - min n (runsLength bs)) <;> simp
    · rw [runAt_cons_of_le _ _ _ _ (by omega)]
      simp only [runZip, runAt_runAppend, runsLength_runMap, runsLength_runTake]
      have h1 : ¬ i < min n (runsLength bs) := by omega
      rw [if_neg h1, ih, runAt_runDrop]
      by_cases hb : n ≤ runsLength bs
      · have h2 : min n (runsLength bs) = n := by omega
        have h3 : n + (i - n) = i := by omega
        rw [h2, h3]
      · have h2 : runAt bs i = none := (runAt_eq_none_iff bs i).mpr (by omega)
        have h3 : runAt bs (n + (i - min n (runsLength bs))) = none := (runAt_eq_none_iff bs _).mpr (by omega)
        rw [h2, h3]
        cases runAt t (i - n) <;> cases runAt t (i - min n (runsLength bs)) <;> simp

/-- A splice within the list's length: inside the positions replaced, the values given; elsewhere the old ones. -/
theorem runAt_runSplice [DecidableEq α] (lo hi i : Nat) (mid rs : Runs α) (hm : runsLength mid = hi - lo) (hl : lo ≤ hi)
    (hr : hi ≤ runsLength rs) :
    runAt (runSplice lo hi mid rs) i = if lo ≤ i ∧ i < hi then runAt mid (i - lo) else runAt rs i := by
  have h0 : min lo (runsLength rs) = lo := by omega
  simp only [runSplice, runAt_runAppend, runsLength_runTake, runAt_runTake, runAt_runDrop, h0, hm]
  by_cases h1 : i < lo
  · have : ¬ (lo ≤ i ∧ i < hi) := by omega
    simp [h1, this]
  · by_cases h2 : i < hi
    · have h3 : i - lo < hi - lo := by omega
      have : lo ≤ i ∧ i < hi := by omega
      simp [h1, h3, this]
    · have h3 : ¬ i - lo < hi - lo := by omega
      have h4 : ¬ (lo ≤ i ∧ i < hi) := by omega
      have h5 : hi + (i - lo - (hi - lo)) = i := by omega
      simp [h1, h3, h4, h5]

theorem runsLength_runSplice [DecidableEq α] (lo hi : Nat) (mid rs : Runs α) (hm : runsLength mid = hi - lo)
    (hl : lo ≤ hi) (hr : hi ≤ runsLength rs) : runsLength (runSplice lo hi mid rs) = runsLength rs := by
  simp [runSplice, hm]; omega

/-! ### Run lists: the canonical form -/

theorem runsCanonical_tail [DecidableEq α] (n : Nat) (v : α) (t : Runs α) (h : runsCanonical ((n, v) :: t) = true) :
    runsCanonical t = true := by
  cases t with
  | nil => simp [runsCanonical]
  | cons a t => obtain ⟨m, w⟩ := a; simp [runsCanonical] at h; exact h.2

theorem runsCanonical_pos [DecidableEq α] (n : Nat) (v : α) (t : Runs α) (h : runsCanonical ((n, v) :: t) = true) :
    0 < n := by
  cases t with
  | nil => simpa [runsCanonical] using h
  | cons a t => obtain ⟨m, w⟩ := a; simp [runsCanonical] at h; exact h.1.1

@[simp] theorem runsCanonical_runCons [DecidableEq α] (n : Nat) (v : α) (rs : Runs α) (h : runsCanonical rs = true) :
    runsCanonical (runCons n v rs) = true := by
  unfold runCons
  by_cases hn : n = 0
  · simpa [hn] using h
  · rw [if_neg hn]
    have hp : 0 < n := by omega
    cases rs with
    | nil => simp [runsCanonical, hp]
    | cons a t =>
      obtain ⟨m, w⟩ := a
      by_cases hv : v = w
      · cases t with
        | nil => simp [hv, runsCanonical, hp]
        | cons b u =>
          obtain ⟨k, x⟩ := b
          simp [runsCanonical] at h
          simp [hv, runsCanonical, hp, h.1.2, h.2]
      · simp [hv, runsCanonical, hp, h]

@[simp] theorem runsCanonical_runTake [DecidableEq α] (k : Nat) (rs : Runs α) : runsCanonical (runTake k rs) = true := by
  induction rs generalizing k with
  | nil => simp [runTake, runsCanonical]
  | cons a t ih =>
    obtain ⟨n, v⟩ := a
    by_cases hk : k ≤ n
    · simp only [runTake, hk, if_true]; exact runsCanonical_runCons _ _ _ (by simp [runsCanonical])
    · simp only [runTake, hk, if_false]; exact runsCanonical_runCons _ _ _ (ih _)

@[simp] theorem runsCanonical_runDrop [DecidableEq α] (k : Nat) (rs : Runs α) (h : runsCanonical rs = true) :
    runsCanonical (runDrop k rs) = true := by
  induction rs generalizing k with
  | nil => simp [runDrop, runsCanonical]
  | cons a t ih =>
    obtain ⟨n, v⟩ := a
    by_cases hk : k < n
    · have hp : 0 < n - k := by omega
      cases t with
      | nil => simp [runDrop, hk, runsCanonical]
      | cons b u => obtain ⟨m, w⟩ := b; simp [runsCanonical] at h; simp [runDrop, hk, runsCanonical, h.1.2, h.2]
    · simp only [runDrop, hk, if_false]; exact ih _ (runsCanonical_tail _ _ _ h)

@[simp] theorem runsCanonical_runAppend [DecidableEq α] (as bs : Runs α) (h : runsCanonical bs = true) :
    runsCanonical (runAppend as bs) = true := by
  induction as with
  | nil => simpa [runAppend] using h
  | cons a t ih => obtain ⟨n, v⟩ := a; exact runsCanonical_runCons _ _ _ ih

@[simp] theorem runsCanonical_runMap [DecidableEq β] (f : α → β) (rs : Runs α) : runsCanonical (runMap f rs) = true := by
  induction rs with
  | nil => simp [runMap, runsCanonical]
  | cons a t ih => obtain ⟨n, v⟩ := a; exact runsCanonical_runCons _ _ _ ih

@[simp] theorem runsCanonical_runZip [DecidableEq β] [DecidableEq γ] (f : α → β → γ) (as : Runs α) (bs : Runs β) :
    runsCanonical (runZip f as bs) = true := by
  induction as generalizing bs with
  | nil => simp [runZip, runsCanonical]
  | cons a t ih => obtain ⟨n, v⟩ := a; exact runsCanonical_runAppend _ _ (ih _)

@[simp] theorem runsCanonical_runSplice [DecidableEq α] (lo hi : Nat) (mid rs : Runs α) (h : runsCanonical rs = true) :
    runsCanonical (runSplice lo hi mid rs) = true :=
  runsCanonical_runAppend _ _ (runsCanonical_runAppend _ _ (runsCanonical_runDrop _ _ h))

/-- In canonical form the value of the first run ends where the run does. -/
theorem runAt_after_first [DecidableEq α] (n : Nat) (v : α) (t : Runs α) (h : runsCanonical ((n, v) :: t) = true) :
    runAt t 0 ≠ some v := by
  cases t with
  | nil => simp [runAt]
  | cons a u =>
    obtain ⟨m, w⟩ := a
    have hm := runsCanonical_pos _ _ _ (runsCanonical_tail _ _ _ h)
    simp [runsCanonical] at h
    simpa [runAt, hm] using fun e => h.1.2 e.symm

/-- Two run lists in canonical form that hold the same values are equal. -/
theorem runs_ext [DecidableEq α] (as bs : Runs α) (ha : runsCanonical as = true) (hb : runsCanonical bs = true)
    (h : ∀ i, runAt as i = runAt bs i) : as = bs := by
  induction as generalizing bs with
  | nil =>
    cases bs with
    | nil => rfl
    | cons b u =>
      obtain ⟨m, w⟩ := b
      have := h 0
      simp [runAt, runsCanonical_pos _ _ _ hb] at this
  | cons a t ih =>
    obtain ⟨n, v⟩ := a
    have hn := runsCanonical_pos _ _ _ ha
    cases bs with
    | nil => have := h 0; simp [runAt, hn] at this
    | cons b u =>
      obtain ⟨m, w⟩ := b
      have hm := runsCanonical_pos _ _ _ hb
      have hv : v = w := by have := h 0; simpa [runAt, hn, hm] using this
      subst hv
      have hle : ¬ n < m := by
        intro hlt
        have := h n
        rw [runAt_cons_of_le _ _ _ _ (Nat.le_refl n), runAt_cons_of_lt _ _ _ _ hlt, Nat.sub_self] at this
        exact runAt_after_first _ _ _ ha this
      have hge : ¬ m < n := by
        intro hlt
        have := h m
        rw [runAt_cons_of_le m _ _ _ (Nat.le_refl m), runAt_cons_of_lt _ _ _ _ hlt, Nat.sub_self] at this
        exact runAt_after_first _ _ _ hb this.symm
      have hnm : n = m := by omega
      subst hnm
      have : t = u := by
        refine ih u (runsCanonical_tail _ _ _ ha) (runsCanonical_tail _ _ _ hb) fun i => ?_
        have := h (n + i)
        rwa [runAt_cons_of_le _ _ _ _ (by omega), runAt_cons_of_le _ _ _ _ (by omega), Nat.add_sub_cancel_left] at this
      rw [this]

/-! ### Planes: the form -/

/-- What the form of a plane says, row by row. -/
theorem planeWf_iff [DecidableEq α] (w h : Nat) (p : Plane α) : planeWf w h p = true ↔
    runsCanonical p = true ∧ runsLength p = h ∧ ∀ row ∈ p, runsCanonical row.2 = true ∧ runsLength row.2 = w := by
  simp [planeWf, and_assoc]

/-- A row of a plane in form. -/
theorem planeWf_row [DecidableEq α] (w h y : Nat) (p : Plane α) (row : Runs α) (hp : planeWf w h p = true)
    (hy : runAt p y = some row) : runsCanonical row = true ∧ runsLength row = w := by
  obtain ⟨n, hn⟩ := runAt_mem _ _ _ hy
  exact ((planeWf_iff _ _ _).mp hp).2.2 _ hn

/-- A plane in form has a row at each row number. -/
theorem planeWf_has_row [DecidableEq α] (w h y : Nat) (p : Plane α) (hp : planeWf w h p = true) (hy : y < h) :
    ∃ row, runAt p y = some row ∧ runsCanonical row = true ∧ runsLength row = w := by
  have hl := ((planeWf_iff _ _ _).mp hp).2.1
  have := (runAt_isSome_iff p y).mpr (by omega)
  obtain ⟨row, hr⟩ := Option.isSome_iff_exists.mp this
  exact ⟨row, hr, planeWf_row _ _ _ _ _ hp hr⟩

theorem runCons_mem [DecidableEq α] (n : Nat) (v : α) (rs : Runs α) (x : Nat × α) (h : x ∈ runCons n v rs) :
    x.2 = v ∨ ∃ m, (m, x.2) ∈ rs := by
  unfold runCons at h
  by_cases hn : n = 0
  · rw [if_pos hn] at h; exact .inr ⟨x.1, h⟩
  · rw [if_neg hn] at h
    cases rs with
    | nil => simp at h; exact .inl (by rw [h])
    | cons a t =>
      obtain ⟨m, w⟩ := a
      by_cases hv : v = w
      · simp [hv] at h
        rcases h with h | h
        · exact .inl (by rw [h, hv])
        · exact .inr ⟨x.1, List.mem_cons_of_mem _ h⟩
      · simp [hv] at h
        rcases h with h | h | h
        · exact .inl (by rw [h])
        · exact .inr ⟨m, by rw [h]; exact List.mem_cons_self⟩
        · exact .inr ⟨x.1, List.mem_cons_of_mem _ h⟩

/-- A canonical run list holds each of its values at some position. -/
theorem runs_mem_runAt [DecidableEq α] (rs : Runs α) (x : Nat × α) (hc : runsCanonical rs = true) (h : x ∈ rs) :
    ∃ i, runAt rs i = some x.2 := by
  induction rs with
  | nil => simp at h
  | cons a t ih =>
    obtain ⟨n, v⟩ := a
    rcases List.mem_cons.mp h with h | h
    · exact ⟨0, by rw [h, runAt_cons_of_lt _ _ _ _ (runsCanonical_pos _ _ _ hc)]⟩
    · obtain ⟨i, hi⟩ := ih (runsCanonical_tail _ _ _ hc) h
      exact ⟨n + i, by rw [runAt_cons_of_le _ _ _ _ (by omega), Nat.add_sub_cancel_left]; exact hi⟩

/-- A plane is in form when its list of rows is canonical, has the height, and every row is canonical of the width. -/
theorem planeWf_of_rows [DecidableEq α] (w h : Nat) (p : Plane α) (hc : runsCanonical p = true) (hl : runsLength p = h)
    (hr : ∀ y row, runAt p y = some row → runsCanonical row = true ∧ runsLength row = w) : planeWf w h p = true := by
  refine (planeWf_iff _ _ _).mpr ⟨hc, hl, fun x hx => ?_⟩
  obtain ⟨i, hi⟩ := runs_mem_runAt p x hc hx
  exact hr _ _ hi

/-! ### Planes: each operation keeps the form -/

@[simp] theorem planeWf_planeOf [DecidableEq α] (w h : Nat) (v : α) : planeWf w h (planeOf w h v) = true := by
  refine planeWf_of_rows _ _ _ (runsCanonical_runCons _ _ _ rfl) (by simp [planeOf, runsLength]) fun y row hy => ?_
  simp only [planeOf, runAt_runCons, runAt] at hy
  split at hy
  · cases hy; exact ⟨runsCanonical_runCons _ _ _ rfl, by simp [runsLength]⟩
  · cases hy

theorem planeWf_planeMap [DecidableEq α] [DecidableEq β] (w h : Nat) (f : α → β) (p : Plane α) (hp : planeWf w h p = true) :
    planeWf w h (planeMap f p) = true := by
  refine planeWf_of_rows _ _ _ (runsCanonical_runMap _ _) ?_ fun y row hy => ?_
  · simpa [planeMap] using ((planeWf_iff _ _ _).mp hp).2.1
  · simp only [planeMap, runAt_runMap, Option.map_eq_some_iff] at hy
    obtain ⟨old, ho, rfl⟩ := hy
    exact ⟨runsCanonical_runMap _ _, by simpa using (planeWf_row _ _ _ _ _ hp ho).2⟩

theorem planeWf_planeCrop [DecidableEq α] (w h : Nat) (r : Rect) (p : Plane α) (hp : planeWf w h p = true)
    (hc : r.col + r.width ≤ w) (hr : r.row + r.height ≤ h) : planeWf r.width r.height (planeCrop r p) = true := by
  refine planeWf_of_rows _ _ _ (runsCanonical_runMap _ _) ?_ fun y row hy => ?_
  · have := ((planeWf_iff _ _ _).mp hp).2.1
    simp [planeCrop, this]; omega
  · simp only [planeCrop, runAt_runMap, runAt_runTake, runAt_runDrop, Option.map_eq_some_iff] at hy
    obtain ⟨old, ho, rfl⟩ := hy
    split at ho
    · have := (planeWf_row _ _ _ _ _ hp ho).2
      exact ⟨runsCanonical_runTake _ _, by simp [this]; omega⟩
    · cases ho

theorem planeWf_planePaste [DecidableEq α] (w h : Nat) (r : Rect) (img p : Plane α) (hp : planeWf w h p = true)
    (hi : planeWf r.width r.height img = true) (hc : r.col + r.width ≤ w) (hr : r.row + r.height ≤ h) :
    planeWf w h (planePaste r img p) = true := by
  have hpl := ((planeWf_iff _ _ _).mp hp).2.1
  have hil := ((planeWf_iff _ _ _).mp hi).2.1
  have hmid : runsLength (runZip (fun line row => runSplice r.col (r.col + r.width) line row) img
      (runTake r.height (runDrop r.row p))) = r.row + r.height - r.row := by simp [hpl, hil]; omega
  refine planeWf_of_rows _ _ _ (runsCanonical_runSplice _ _ _ _ ((planeWf_iff _ _ _).mp hp).1)
    (by unfold planePaste; rw [runsLength_runSplice _ _ _ _ hmid (by omega) (by omega), hpl]) fun y row hy => ?_
  unfold planePaste at hy
  rw [runAt_runSplice _ _ _ _ _ hmid (by omega) (by omega)] at hy
  split at hy
  · simp only [runAt_runZip, Option.bind_eq_some_iff, Option.map_eq_some_iff, runAt_runTake, runAt_runDrop] at hy
    obtain ⟨line, hl, old, ho, rfl⟩ := hy
    split at ho
    · have h1 := planeWf_row _ _ _ _ _ hp ho
      have h2 := planeWf_row _ _ _ _ _ hi hl
      exact ⟨runsCanonical_runSplice _ _ _ _ h1.1,
        by rw [runsLength_runSplice _ _ _ _ (by omega) (by omega) (by omega), h1.2]⟩
    · cases ho
  · exact planeWf_row _ _ _ _ _ hp hy

theorem planeWf_planeFill [DecidableEq α] (w h : Nat) (r : Rect) (v : α) (p : Plane α) (hp : planeWf w h p = true)
    (hc : r.col + r.width ≤ w) (hr : r.row + r.height ≤ h) : planeWf w h (planeFill r v p) = true :=
  planeWf_planePaste _ _ _ _ _ hp (planeWf_planeOf _ _ _) hc hr

theorem planeWf_planeSet [DecidableEq α] (w h x y : Nat) (v : α) (p : Plane α) (hp : planeWf w h p = true) (hx : x < w)
    (hy : y < h) : planeWf w h (planeSet x y v p) = true :=
  planeWf_planePaste _ _ _ _ _ hp (planeWf_planeOf _ _ _) (by simpa using hx) (by simpa using hy)

/-- The planes of the reset state are in form. -/
theorem planes_reset : planeWf 800 600 State.reset.pendingPlane = true ∧ planeWf 800 600 State.reset.target = true ∧
    planeWf 800 600 State.reset.shown = true :=
  ⟨planeWf_planeOf _ _ _, planeWf_planeOf _ _ _, planeWf_planeOf _ _ _⟩

/-! ### Planes: the value of a pixel -/

theorem planeAt_planeOf [DecidableEq α] (w h x y : Nat) (v : α) :
    planeAt (planeOf w h v) x y = if x < w ∧ y < h then some v else none := by
  unfold planeAt planeOf
  by_cases hy : y < h <;> by_cases hx : x < w <;> simp [runAt, hx, hy]

theorem planeAt_isSome [DecidableEq α] (w h x y : Nat) (p : Plane α) (hp : planeWf w h p = true) :
    (planeAt p x y).isSome = true ↔ x < w ∧ y < h := by
  unfold planeAt
  by_cases hy : y < h
  · obtain ⟨row, hr, -, hl⟩ := planeWf_has_row _ _ _ _ hp hy
    rw [hr, Option.bind_some, runAt_isSome_iff, hl]; omega
  · have : runAt p y = none := (runAt_eq_none_iff _ _).mpr (by have := ((planeWf_iff _ _ _).mp hp).2.1; omega)
    simp [this, hy]

theorem planeAt_planeMap [DecidableEq β] (f : α → β) (p : Plane α) (x y : Nat) :
    planeAt (planeMap f p) x y = (planeAt p x y).map f := by
  unfold planeAt planeMap
  rw [runAt_runMap]
  cases runAt p y <;> simp

theorem planeAt_planeCrop [DecidableEq α] (r : Rect) (p : Plane α) (x y : Nat) :
    planeAt (planeCrop r p) x y = if x < r.width ∧ y < r.height then planeAt p (r.col + x) (r.row + y) else none := by
  unfold planeAt planeCrop
  rw [runAt_runMap, runAt_runTake, runAt_runDrop]
  by_cases hy : y < r.height
  · cases runAt p (r.row + y) <;> by_cases hx : x < r.width <;> simp [hx, hy]
  · simp [hy]

theorem planeAt_planePaste [DecidableEq α] (w h : Nat) (r : Rect) (img p : Plane α) (x y : Nat)
    (hp : planeWf w h p = true) (hi : planeWf r.width r.height img = true) (hc : r.col + r.width ≤ w)
    (hr : r.row + r.height ≤ h) :
    planeAt (planePaste r img p) x y =
      if rectContains r x y = true then planeAt img (x - r.col) (y - r.row) else planeAt p x y := by
  have hpl := ((planeWf_iff _ _ _).mp hp).2.1
  have hil := ((planeWf_iff _ _ _).mp hi).2.1
  have hmid : runsLength (runZip (fun line row => runSplice r.col (r.col + r.width) line row) img
      (runTake r.height (runDrop r.row p))) = r.row + r.height - r.row := by simp [hpl, hil]; omega
  unfold planeAt planePaste
  rw [runAt_runSplice _ _ _ _ _ hmid (by omega) (by omega)]
  by_cases hy : r.row ≤ y ∧ y < r.row + r.height
  · obtain ⟨line, h1, -, h2⟩ := planeWf_has_row _ _ (y - r.row) _ hi (by omega)
    obtain ⟨row, h3, -, h4⟩ := planeWf_has_row _ _ y _ hp (by omega)
    have h5 : r.row + (y - r.row) = y := by omega
    have h6 : y - r.row < r.height := by omega
    rw [if_pos hy, runAt_runZip, runAt_runTake, runAt_runDrop, if_pos h6, h5, h1, h3]
    simp only [Option.bind_some, Option.map_some]
    rw [runAt_runSplice _ _ _ _ _ (by omega) (by omega) (by omega)]
    simp [rectContains, hy.1, hy.2]
  · rw [if_neg hy]
    have : rectContains r x y = false := by simp [rectContains]; omega
    simp [this]

theorem planeAt_planeFill [DecidableEq α] (w h : Nat) (r : Rect) (v : α) (p : Plane α) (x y : Nat)
    (hp : planeWf w h p = true) (hc : r.col + r.width ≤ w) (hr : r.row + r.height ≤ h) :
    planeAt (planeFill r v p) x y = if rectContains r x y = true then some v else planeAt p x y := by
  unfold planeFill
  rw [planeAt_planePaste _ _ _ _ _ _ _ hp (planeWf_planeOf _ _ _) hc hr, planeAt_planeOf]
  by_cases hin : rectContains r x y = true
  · have : x - r.col < r.width ∧ y - r.row < r.height := by simp [rectContains] at hin; omega
    simp [hin, this]
  · simp [hin]

theorem planeAt_planeSet [DecidableEq α] (w h a b : Nat) (v : α) (p : Plane α) (x y : Nat) (hp : planeWf w h p = true)
    (ha : a < w) (hb : b < h) :
    planeAt (planeSet a b v p) x y = if x = a ∧ y = b then some v else planeAt p x y := by
  unfold planeSet
  rw [planeAt_planePaste _ _ ⟨a, b, 1, 1⟩ _ _ _ _ hp (planeWf_planeOf _ _ _) (by simpa using ha) (by simpa using hb),
    planeAt_planeOf]
  have : (rectContains ⟨a, b, 1, 1⟩ x y = true) ↔ (x = a ∧ y = b) := by simp [rectContains]; omega
  by_cases h : x = a ∧ y = b
  · rw [this.mpr h, if_pos rfl, if_pos h]
    simp [h]
  · have h' : rectContains ⟨a, b, 1, 1⟩ x y = false := by rw [← Bool.not_eq_true, this]; exact h
    simp [h', h]

/-- Two planes of one size in canonical form with the same pixels are the same data. -/
theorem plane_ext [DecidableEq α] (w h : Nat) (p q : Plane α) (hp : planeWf w h p = true) (hq : planeWf w h q = true)
    (he : ∀ x y, planeAt p x y = planeAt q x y) : p = q := by
  refine runs_ext _ _ ((planeWf_iff _ _ _).mp hp).1 ((planeWf_iff _ _ _).mp hq).1 fun y => ?_
  by_cases hy : y < h
  · obtain ⟨a, h1, h2, -⟩ := planeWf_has_row _ _ y _ hp hy
    obtain ⟨b, h3, h4, -⟩ := planeWf_has_row _ _ y _ hq hy
    rw [h1, h3]
    congr 1
    refine runs_ext _ _ h2 h4 fun x => ?_
    simpa [planeAt, h1, h3] using he x y
  · rw [(runAt_eq_none_iff p y).mpr (by have := ((planeWf_iff _ _ _).mp hp).2.1; omega),
      (runAt_eq_none_iff q y).mpr (by have := ((planeWf_iff _ _ _).mp hq).2.1; omega)]

/-- R2: a region lies on the panel. -/
theorem region_on_panel (r : Region) : 1 ≤ r.val.width ∧ 1 ≤ r.val.height ∧ r.val.col + r.val.width ≤ 800 ∧
    r.val.row + r.val.height ≤ 600 := by
  have h := r.property
  simp [rectValid] at h
  omega

/-- R5: two regions overlap exactly when some pixel lies in both. -/
theorem rectsOverlap_iff_shared_pixel (r q : Region) : rectsOverlap r.val q.val = true ↔
    ∃ x y : Nat, rectContains r.val x y = true ∧ rectContains q.val x y = true := by
  have hr := region_on_panel r
  have hq := region_on_panel q
  simp only [rectsOverlap, rectContains, Bool.and_eq_true, decide_eq_true_eq]
  refine ⟨fun h => ⟨max r.val.col q.val.col, max r.val.row q.val.row, by omega, by omega⟩, ?_⟩
  rintro ⟨x, y, h1, h2⟩
  omega

/-- A plane in form holds a value exactly when some pixel has it. -/
theorem planeHolds_iff [DecidableEq α] (w h : Nat) (v : α) (p : Plane α) (hp : planeWf w h p = true) :
    planeHolds v p = true ↔ ∃ x y, planeAt p x y = some v := by
  have hc := ((planeWf_iff _ _ _).mp hp)
  simp only [planeHolds, List.any_eq_true, decide_eq_true_eq]
  constructor
  · rintro ⟨row, hrow, run, hrun, rfl⟩
    obtain ⟨y, hy⟩ := runs_mem_runAt _ _ hc.1 hrow
    obtain ⟨x, hx⟩ := runs_mem_runAt _ _ (hc.2.2 row hrow).1 hrun
    exact ⟨x, y, by simp [planeAt, hy, hx]⟩
  · rintro ⟨x, y, hxy⟩
    obtain ⟨row, hy, hx⟩ := Option.bind_eq_some_iff.mp hxy
    obtain ⟨n, hn⟩ := runAt_mem _ _ _ hy
    obtain ⟨m, hm⟩ := runAt_mem _ _ _ hx
    exact ⟨_, hn, _, hm, rfl⟩

/-- R31: the source check over a region, pixel by pixel. -/
theorem sourceUnknown_iff (s : State) (r : Region) (hp : planeWf 800 600 s.shown = true) :
    sourceUnknown s r.val = true ↔ ∃ x y, rectContains r.val x y = true ∧ planeAt s.shown x y = some .unknown := by
  have hr := region_on_panel r
  have hw := planeWf_planeCrop 800 600 r.val s.shown hp (by omega) (by omega)
  rw [sourceUnknown, planeHolds_iff _ _ _ _ hw]
  simp only [planeAt_planeCrop, rectContains, Bool.and_eq_true, decide_eq_true_eq]
  constructor
  · rintro ⟨x, y, h⟩
    split at h
    · exact ⟨_, _, by omega, h⟩
    · cases h
  · rintro ⟨x, y, h1, h2⟩
    refine ⟨x - r.val.col, y - r.val.row, ?_⟩
    rw [if_pos (by omega), show r.val.col + (x - r.val.col) = x by omega, show r.val.row + (y - r.val.row) = y by omega]
    exact h2

end Sys2Proof.Machine
end

