-- ==== Sys2Proof/Tests/Slice0.lean ====
section
/-! SUPPORT. Tests: the check values and worked examples of the spec on small states, one step each. -/

namespace Sys2Proof.Tests

open Sys2Proof Sys2Proof.Machine

set_option Elab.async false

/-! ### Small states -/

/-- A rectangle as a region. -/
def reg (col row width height : Nat) (h : rectValid ⟨col, row, width, height⟩ = true := by decide) : Region :=
  ⟨⟨col, row, width, height⟩, h⟩

/-- An image of 110 bytes: one band from −40, and mode 0, two-level with an UNKNOWN row, F = 3, each list one POS step of
3 frames. -/
def testImage : List Byte :=
  [1, 1, 1, 0xD8, 0, 2, 1, 3] ++ (List.replicate 34 [1, 1, 3]).flatten

/-- The mode record of the test image. -/
def soundMode : ModeRecord where
  id := 0
  twoLevel := true
  unknownRow := true
  bands := [{ frames := 3, table := List.replicate 34 [{ drive := .pos, frames := 3 }] }]

/-- The image that the test image's bytes lay out. -/
def soundImage : BankImage where
  bounds := [-40]
  modes := [soundMode]

/-- Bank A with the test image, in the state given. -/
def imageBank (st : BankState) (count : Nat) : Bank where
  state := st
  contents := testImage
  declared := some { size := 110, crc := crc32 testImage }
  refCount := count

/-- The part in normal running, the session OPEN, bank A ACTIVE, the reading 21. -/
def ready : State :=
  { State.reset with
    phase := .running
    bankA := imageBank .active 0
    temp := { reading := some { value := 21, age := 0 }, converting := false, nextStart := some 30 }
    link := { State.reset.link with sessionOpen := true } }

/-- An entry of the Request Table that waits. -/
def entryOf (code : RequestCode) (payload : List Byte) : Request where
  seq := 7
  code := requestCodeByte code
  payload := payload
  state := .waiting
  orphaned := false

/-- A state whose one outstanding request waits. -/
def ask (code : RequestCode) (payload : List Byte) (s : State) : State :=
  { s with link := { s.link with table := [entryOf code payload] } }

/-- A receiver that has completed a frame with the right CRC. -/
def completed (cls seq code : Byte) (payload : List Byte) : Receiver :=
  let crc := (crc16 (frameCore cls seq code payload)).toNat
  .complete (payload.length + 3) (cls :: seq :: code :: payload) (byteOf crc) (byteOf (crc / 256))

/-- A state whose receiver has completed a frame with the right CRC. -/
def received (cls seq code : Byte) (payload : List Byte) (s : State) : State :=
  { s with link := { s.link with receiver := completed cls seq code payload } }

/-- An update in a slot of mode 0 from bank A, F = 3. -/
def updateOf (id index : Nat) (rect : Region) : Update where
  id := id
  rect := rect
  mode := 0
  bank := .a
  band := 0
  frames := 3
  index := index
  skipUnchanged := false
  notifyStart := false
  changed := 4

/-- An entry of the Update Queue, WAIT, mode 0. -/
def queued (id : Nat) (rect : Region) : Entry where
  id := id
  rect := rect
  mode := 0
  policy := .wait
  skipUnchanged := false
  notifyStart := false
  rasterFence := none
  loadFence := false

/-- A reply of an entry, status OK. -/
def okReply (seq code : Byte) (effect : ReplyEffect) : QueuedReply where
  reply := { seq := seq, code := code, payload := [0] }
  origin := .entry
  effect := effect

/-- Two slots, DRIVING and ARMED, and an entry behind the first; the rails ON and frames running; one job RUNNING. -/
def busy : State :=
  { ready with
    pending := [.frameBoundary]
    slots := (State.reset.slots.set 0 (.driving (updateOf 1 3 (reg 0 0 2 2)))).set 1 (.armed (updateOf 2 0 (reg 4 4 2 2)))
    queue := [queued 3 (reg 1 1 2 2)]
    idCounter := 4
    bankA := imageBank .active 2
    rails := { Rails.reset with state := .on }
    frameTimer := .running 85
    raster := { jobs := [{ number := 1, kind := .fill (reg 10 0 2 1) 5, progress := .running 1 (planeOf 2 1 5) }]
                counter := .next 2
                mark := 0 }
    notices := { items := [.bankRetired .b], credit := 2, lost := 0, seqCounter := 255 }
    link := { ready.link with
      table := [{ entryOf .getStatus [] with state := .executing }]
      replies := [okReply 7 0x02 .nothing]
      cache := [{ seq := 6, code := 2, payload := [0] }] } }

/-- A property of the state after a command that gives a next state. -/
def after (c : Instr) (s : State) (p : State → Bool) : Bool :=
  match exec c s with
  | .next t => p t
  | .fault _ => false
  | .refused _ => false

/-- The first reply waiting, by its payload. -/
def firstReply (s : State) : Option (List Byte) := s.link.replies.head?.map (·.reply.payload)

/-! ### Well-formedness -/

/-- R84: a sensor result with denominator 0 is no number; the check refuses it. -/
theorem test_wellFormed_refuses_den_zero : instrWellFormed (.conversionComplete { num := 5, den := 0 }) = false := by decide +kernel

theorem test_wellFormed_accepts_half : instrWellFormed (.conversionComplete { num := 43, den := 2 }) = true := by decide +kernel

theorem test_ill_formed_result_faults (s : State) :
    exec (.conversionComplete { num := 5, den := 0 }) s = .fault .sensorResultNotANumber := rfl

/-! ### Formats -/

/-- R188: the check value over the nine ASCII characters "123456789". -/
theorem test_crc16_check : crc16 [0x31, 0x32, 0x33, 0x34, 0x35, 0x36, 0x37, 0x38, 0x39] = 0x29B1#16 := by decide +kernel

/-- R192: the check value over the nine ASCII characters "123456789". -/
theorem test_crc32_check : crc32 [0x31, 0x32, 0x33, 0x34, 0x35, 0x36, 0x37, 0x38, 0x39] = 0xCBF43926#32 := by decide +kernel

/-- R73: the number of phase lists in a table: 256, 272, 32 or 34. -/
theorem test_table_lists : tableLists false false = 256 ∧ tableLists false true = 272 ∧ tableLists true false = 32 ∧
    tableLists true true = 34 := by decide +kernel

/-- R193: the bytes of the test image, read as its layout says. -/
theorem test_image_walk : walkImage testImage = .ok soundImage := by decide +kernel

/-- R74: an image cut short is TRUNCATED at its size, and one with a byte more is TRAILING there. -/
theorem test_image_truncated : walkImage (testImage.take 60) = .error (.truncated, 60) := by decide +kernel

theorem test_image_trailing : walkImage (testImage ++ [0]) = .error (.trailing, 110) := by decide +kernel

/-- R71, the example of chapter 4: the bands −10, 0, 15 and 30. -/
theorem test_band_example : bandOfReading [-10, 0, 15, 30] 15 = some 2 ∧ bandOfReading [-10, 0, 15, 30] 14 = some 1 ∧
    bandOfReading [-10, 0, 15, 30] (-11) = none ∧ bandOfReading [-10, 0, 15, 30] 85 = some 3 := by decide +kernel

/-- R114, the example of chapter 7: order 7 in a window 3 wide and 2 high at column 10, row 20. -/
theorem test_cursor_example : (List.range 6).map (cursorPixel ⟨10, 20, 3, 2⟩ 7) =
    [(12, 21), (12, 20), (11, 21), (11, 20), (10, 21), (10, 20)] := by decide +kernel

/-- R5: rectangles that touch along an edge do not overlap; ones that share a corner pixel do. -/
theorem test_overlap : rectsOverlap ⟨0, 0, 10, 10⟩ ⟨10, 0, 5, 5⟩ = false ∧
    rectsOverlap ⟨0, 0, 10, 10⟩ ⟨9, 9, 5, 5⟩ = true := by decide +kernel

/-- R2: the whole panel is valid; a width of 0 and a rectangle past column 799 are not. -/
theorem test_rect_valid : rectValid ⟨0, 0, 800, 600⟩ = true ∧ rectValid ⟨0, 0, 0, 600⟩ = false ∧
    rectValid ⟨799, 0, 2, 1⟩ = false := by decide +kernel

/-! ### The Control Line -/

/-- R150: a request with the session CLOSED is answered NOT_OPEN and not entered. -/
theorem test_frame_not_open : after .frame (received 0x01 9 0x02 [] { ready with link := State.reset.link }) (fun t =>
    firstReply t = some [0x01] && t.link.table.isEmpty) = true := by decide +kernel

/-- R155: a fresh request is entered, WAITING. -/
theorem test_frame_admits : after .frame (received 0x01 9 0x13 [1] ready) (fun t =>
    decide (t.link.table = [{ seq := 9, code := 0x13, payload := [1], state := .waiting, orphaned := false }])) = true := by
  decide +kernel

/-- R148: a gap in BODY is counted and the receiver hunts. -/
theorem test_gap_counts : after .gapTimeout { ready with link := { ready.link with receiver := .body 5 [1, 2] } } (fun t =>
    decide (t.link.receiver = .hunt) && decide (t.link.counters.gap = 1)) = true := by decide +kernel

/-- R146: LEN 2 and LEN 1,028 are discarded and counted; LEN 3 begins a body. -/
theorem test_length_bounds :
    after (.receivedByte 0) { ready with link := { ready.link with receiver := .length (some 2) } }
      (fun t => decide (t.link.receiver = .hunt) && decide (t.link.counters.length = 1)) = true ∧
    after (.receivedByte 4) { ready with link := { ready.link with receiver := .length (some 4) } }
      (fun t => decide (t.link.receiver = .hunt) && decide (t.link.counters.length = 1)) = true ∧
    after (.receivedByte 0) { ready with link := { ready.link with receiver := .length (some 3) } }
      (fun t => decide (t.link.receiver = .body 3 [])) = true := by decide +kernel

/-- R151, R190: an accepted Hello's reply begins OK, vendor 0x0D31, part 0x0806 and ends with the cause PIN. -/
theorem test_hello_identity : after .hello (received 0x01 9 0x01 [1] { ready with link := State.reset.link }) (fun t =>
    t.link.sessionOpen && decide (firstReply t =
      some [0, 0x31, 0x0D, 0x06, 0x08, 1, 1, 8, 16, 2, 0, 0, 1, 0, 4, 8, 8, 16, 0, 4, 1])) = true := by decide +kernel

/-- R158: a CODE that names no request is UNKNOWN_CODE. -/
theorem test_unknown_code : after .unknownCode
    { ready with link := { ready.link with table := [{ entryOf .halt [] with code := 0x7F }] } }
    (fun t => decide (firstReply t = some [0x02])) = true := by decide +kernel

/-- R162: the oldest reply is begun; at its end its entry leaves and it is cached. -/
theorem test_reply_begin : after .replyBegin busy (fun t =>
    decide (t.link.transmitter = .sendingReply (okReply 7 0x02 .nothing) true) && t.link.replies.isEmpty) = true := by decide +kernel

theorem test_reply_sent : after .replySent
    { busy with link := { busy.link with replies := [], transmitter := .sendingReply (okReply 7 0x02 .nothing) true } }
    (fun t => t.link.table.isEmpty && decide (t.link.cache.map (·.seq) = [6, 7])) = true := by decide +kernel

/-- R171: SEQ 255 is used and the counter goes on to 0. -/
theorem test_notice_begin : after .noticeBegin { busy with link := ready.link } (fun t =>
    decide (t.link.transmitter = .sendingNotice 255 (.bankRetired .b)) && decide (t.notices.seqCounter = 0) &&
      decide (t.notices.credit = 1)) = true := by decide +kernel

theorem test_notice_sent : after .noticeSent { ready with link := { ready.link with transmitter := .sendingNotice 0 (.bankRetired .a) } }
    (fun t => decide (t.link.transmitter = .idle)) = true := by decide +kernel

/-! ### Requests -/

/-- R190: 144 bytes of Get Status. -/
theorem test_get_status : after .getStatus (ask .getStatus [] busy) (fun t =>
    decide ((t.link.replies.map (·.reply.payload.length)) = [1, 144])) = true := by decide +kernel

/-- R178: HOLD_TIME, 1,000 by default. -/
theorem test_get_parameter : after .getParameter (ask .getParameter [0x04] ready) (fun t =>
    decide (firstReply t = some [0, 0x04, 0xE8, 0x03, 0, 0])) = true := by decide +kernel

/-- R176: FRAME_RATE takes 20, and 19 is BAD_VALUE. -/
theorem test_set_parameter :
    after .setParameter (ask .setParameter [0x01, 20, 0, 0, 0] ready) (fun t => decide (t.params.frameRate = 20)) = true ∧
    after .setParameter (ask .setParameter [0x01, 19, 0, 0, 0] ready) (fun t =>
      decide (t.params.frameRate = 85) && decide (firstReply t = some [0x05])) = true := by decide +kernel

/-- R90: HOST discards the reading. -/
theorem test_set_source : after .setParameter (ask .setParameter [0x06, 1, 0, 0, 0] ready) (fun t =>
    decide (t.temp.reading = none) && decide (t.temp.nextStart = none)) = true := by decide +kernel

/-- R182: the dispatcher takes nothing after a Restart. -/
theorem test_restart : after .restart (ask .restart [] ready) (fun t => t.link.restartTaken) = true := by decide +kernel

/-- R170: a grant is limited at 255. -/
theorem test_grant : after .grantNotices (ask .grantNotices [254] { busy with link := ready.link }) (fun t =>
    decide (t.notices.credit = 255) && decide (firstReply t = some [0, 255])) = true := by decide +kernel

/-- 13.1: an update of mode 0 arms slot 0, takes id 1, counts every UNKNOWN pixel, and the rails rise. -/
theorem test_submit_arms : after .submitUpdate
    (ask .submitUpdate (rectBytes ⟨0, 0, 4, 2⟩ ++ [0, 0, 0, 0]) ready) (fun t =>
      decide ((slotUpdate t.slots[0]).map (fun u => (u.id, u.changed, u.frames)) = some (1, 8, 3)) &&
      decide (t.rails.state = .rising) && decide (t.idCounter = 2) && decide (firstReply t = some [0, 1, 0]) &&
      decide (t.bankA.refCount = 1)) = true := by decide +kernel

/-- R15: with no bank ACTIVE the reply is NO_WAVEFORM. -/
theorem test_submit_no_waveform : after .submitUpdate
    (ask .submitUpdate (rectBytes ⟨0, 0, 4, 2⟩ ++ [0, 0, 0, 0]) { ready with bankA := Bank.none })
    (fun t => decide (firstReply t = some [0x0B])) = true := by decide +kernel

/-- R35: an active update is IN_DRIVE, and the id 0 is NOT_FOUND. -/
theorem test_cancel :
    after .cancelUpdate (ask .cancelUpdate [1, 0] { busy with link := ready.link }) (fun t =>
      decide (firstReply t = some [0x10])) = true ∧
    after .cancelUpdate (ask .cancelUpdate [0, 0] { busy with link := ready.link }) (fun t =>
      decide (firstReply t = some [0x0F])) = true := by decide +kernel

/-- R37, R190: the entry behind slot 0 is QUEUED at position 0 with (f) alone unmet, bit 5. -/
theorem test_query : after .queryUpdate (ask .queryUpdate [3, 0] { busy with link := ready.link }) (fun t =>
    decide (firstReply t = some [0, 1, 0, 0x20, 0, 0, 0, 0, 0])) = true := by decide +kernel

/-- R54: with frames running a Halt waits; its flush cancels the queue. -/
theorem test_halt : after .halt (ask .halt [1] { busy with link := ready.link }) (fun t =>
    decide (t.halt = .halting) && t.queue.isEmpty && t.rails.fastFall &&
      decide (t.link.table.map (·.state) = [.deferred .halt])) = true := by decide +kernel

/-- R58: Resume in HALTING is BUSY. -/
theorem test_resume_busy : after .resume (ask .resume [] { busy with link := ready.link, halt := .halting }) (fun t =>
    decide (firstReply t = some [0x09]) && decide (t.halt = .halting)) = true := by decide +kernel

theorem test_bank_open : after .bankOpen (ask .bankOpen [1, 64, 0, 0, 0, 1, 2, 3, 4] ready) (fun t =>
    decide (t.bankB.state = .loading) && decide (t.bankB.declared = some { size := 64, crc := 0x04030201 })) = true := by
  decide +kernel

/-- R66: an offset that is not the received count is OUT_OF_ORDER. -/
theorem test_bank_data : after .bankData (ask .bankData [1, 1, 0, 0, 0, 9]
    { ready with bankB := { Bank.none with state := .loading, declared := some { size := 64, crc := 0 } } }) (fun t =>
      decide (firstReply t = some [0x13, 0, 0, 0, 0]) && t.bankB.contents.isEmpty) = true := by decide +kernel

/-- R67: short of its declared size a bank refuses Bank Verify with SIZE. -/
theorem test_bank_verify : after .bankVerify (ask .bankVerify [1]
    { ready with bankB := { Bank.none with state := .loading, declared := some { size := 64, crc := 0 } } }) (fun t =>
      decide (firstReply t = some [0x15])) = true := by decide +kernel

/-- R69: an image that walks, with the CRC declared, verifies. -/
theorem test_verification : (verifyOutcome (imageBank .verifying 0)).1 = .ok ∧
    (verifyOutcome (imageBank .verifying 0)).2.2.state = .loaded := by
  have h : walkImage (imageBank .verifying 0).contents = .ok soundImage := test_image_walk
  unfold verifyOutcome
  rw [if_pos (show declaredCrc (imageBank .verifying 0) = some (crc32 (imageBank .verifying 0).contents) from rfl), h]
  exact ⟨rfl, rfl⟩

/-- Nine bytes VERIFYING in bank B, with a declared CRC of 0. -/
def mismatched : State :=
  { ready with bankB := { Bank.none with
      state := .verifying
      contents := [0x31, 0x32, 0x33, 0x34, 0x35, 0x36, 0x37, 0x38, 0x39]
      declared := some { size := 9, crc := 0 } } }

/-- R69, R192: with another declared CRC the bank becomes EMPTY, and the reply carries the CRC computed. -/
theorem test_verification_crc : (verifyOutcome mismatched.bankB).1 = .crcMismatch ∧
    (verifyOutcome mismatched.bankB).2.1 = [0x26, 0x39, 0xF4, 0xCB] ∧
    (verifyOutcome mismatched.bankB).2.2 = Bank.none := by decide +kernel

/-- 13.3: bank A, in use, becomes RETIRING when bank B is activated. -/
theorem test_bank_activate : after .bankActivate (ask .bankActivate [1]
    { busy with link := ready.link, bankB := imageBank .loaded 0 }) (fun t =>
      decide (t.bankA.state = .retiring) && decide (t.bankA.refCount = 2) && decide (t.bankB.state = .active)) = true := by
  decide +kernel

/-- R78: an ACTIVE bank cannot be erased. -/
theorem test_bank_erase : after .bankErase (ask .bankErase [0] ready) (fun t =>
    decide (firstReply t = some [0x0A]) && decide (t.bankA.state = .active)) = true := by decide +kernel

/-- R85: with source INTERNAL a Temperature Report is WRONG_STATE; −41 is BAD_FIELD first. -/
theorem test_temperature_report :
    after .temperatureReport (ask .temperatureReport [20] ready) (fun t => decide (firstReply t = some [0x0A])) = true ∧
    after .temperatureReport (ask .temperatureReport [0xD7] ready) (fun t => decide (firstReply t = some [0x04])) = true := by
  decide +kernel

theorem test_clear_fault : after .clearFault
    (ask .clearFault [] { ready with rails := { Rails.reset with state := .fault, faultCause := some .powerLost } }) (fun t =>
      decide (t.rails = Rails.reset) && decide (firstReply t = some [0])) = true := by decide +kernel

/-- The example of chapter 7: the window at column 200, row 100, 5 by 3. -/
theorem test_load_open : after .loadOpen (ask .loadOpen (rectBytes ⟨200, 100, 5, 3⟩ ++ [0]) ready) (fun t =>
    decide (t.load.map (fun l => (l.written, l.discarded)) = some (0, 0)) &&
      decide (firstReply t = some [0, 0, 0, 0, 0, 0, 0, 0, 0, 0])) = true := by decide +kernel

/-- The example of chapter 7: 10 pixels with room for 7. -/
theorem test_load_data : after .loadData (ask .loadData [10, 0, 0x12, 0x34, 0x56, 0x78, 0x9A]
    { ready with load := some { window := reg 200 100 5 3, order := 0, written := 8, discarded := 0 } }) (fun t =>
      decide (firstReply t = some [0, 7, 0, 3, 0, 1, 15, 0, 0, 0]) && decide (planeAt t.pendingPlane 203 101 = some 1) &&
        decide (planeAt t.pendingPlane 204 102 = some 7) &&
        decide (t.load.map (fun l => (l.written, l.discarded)) = some (15, 3))) = true := by decide +kernel

theorem test_load_close : after .loadClose (ask .loadClose []
    { ready with load := some { window := reg 200 100 5 3, order := 0, written := 15, discarded := 7 } }) (fun t =>
      decide (firstReply t = some [0, 15, 0, 0, 0, 0, 0, 0, 0, 7, 0, 0, 0]) && t.load.isNone) = true := by decide +kernel

/-- R124: Pending after a pin reset reads 15 in each half byte, an odd last one with 0 below it. -/
theorem test_read_pixels : after .readPixels (ask .readPixels (0 :: rectBytes ⟨0, 0, 3, 1⟩) ready) (fun t =>
    decide (firstReply t = some ([0, 0] ++ rectBytes ⟨0, 0, 3, 1⟩ ++ [0xFF, 0xF0]))) = true := by decide +kernel

theorem test_read_shown : after .readPixels (ask .readPixels (1 :: rectBytes ⟨0, 0, 3, 1⟩) ready) (fun t =>
    decide (firstReply t = some ([0, 1] ++ rectBytes ⟨0, 0, 3, 1⟩ ++ [0xFF, 0xFF, 0xFF]))) = true := by decide +kernel

/-- R134: a first job is number 1 and RUNNING. -/
theorem test_fill : after .fill (ask .fill (rectBytes ⟨0, 0, 2, 1⟩ ++ [5]) ready) (fun t =>
    decide (t.raster.jobs.map (fun j => (j.number, isRunning j)) = [(1, true)]) && decide (t.raster.counter = .next 2) &&
      decide (t.link.table.map (·.state) = [.deferred (.job 1)])) = true := by decide +kernel

theorem test_copy_bad_rect : after .copy (ask .copy (rectBytes ⟨0, 0, 2, 1⟩ ++ [31, 3, 0, 0]) ready) (fun t =>
    decide (firstReply t = some [0x06])) = true := by decide +kernel

/-! ### Events -/

/-- Pending with 1 to 6 in columns 0 to 5 of row 0, as in the example of chapter 8. -/
def copyPlane : Plane Level :=
  planeSet 0 0 1 (planeSet 1 0 2 (planeSet 2 0 3 (planeSet 3 0 4 (planeSet 4 0 5 (planeSet 5 0 6 (planeOf 800 600 15))))))

/-- The copy of that example, RUNNING with written count `k`. -/
def copying (k : Nat) (p : Plane Level) : State :=
  { ready with
    pendingPlane := p
    raster := { jobs := [{ number := 1, kind := .copy (reg 0 0 4 1) (reg 2 0 4 1), progress := .running k (planeCrop ⟨0, 0, 4, 1⟩ copyPlane) }]
                counter := .next 2
                mark := 0 } }

/-- The example of chapter 8: at completion the columns 0 to 5 hold 1, 2, 1, 2, 3, 4. -/
theorem test_copy_completion : after .jobCompletion (copying 0 copyPlane) (fun t =>
    decide ((List.range 6).map (fun x => planeAt t.pendingPlane x 0) = [some 1, some 2, some 1, some 2, some 3, some 4]) &&
      decide (t.raster.mark = 1) && t.raster.jobs.isEmpty) = true := by decide +kernel

/-- The third pixel written is the old level of column 2, though column 2 has been written over. -/
theorem test_copy_pixel : after .jobWritesPixel (copying 2 (planeSet 2 0 1 (planeSet 3 0 2 copyPlane))) (fun t =>
    decide ((List.range 6).map (fun x => planeAt t.pendingPlane x 0) = [some 1, some 2, some 1, some 2, some 3, some 6])) =
      true := by decide +kernel

/-- R47, R51, R27: slot 0 completes, and the entry that overlapped it arms into slot 0; slot 1 drives. -/
theorem test_boundary : after .frameBoundary busy (fun t =>
    decide (t.slots.toList.map (fun x => (slotUpdate x).map (fun u => (u.id, u.index))) =
      [some (3, 0), some (2, 1), none, none, none, none, none, none]) && decide (t.bankA.refCount = 2) &&
      decide (t.notices.items = [.bankRetired .b, .updateEnded 1 .done 3 4])) = true := by decide +kernel

/-- 13.4: power lost in ON: Rail Fault first, then each slot's end, lowest first. -/
theorem test_power_lost : after .powerGoodLoss { busy with powerGood := true } (fun t =>
    decide (t.notices.items = [.bankRetired .b, .railFault .powerLost .on, .updateEnded 1 .railFault 3 4,
      .updateEnded 2 .railFault 0 4]) && decide (t.rails.state = .fault) && !railEnable t &&
      decide (planeAt t.shown 0 0 = some .unknown)) = true := by decide +kernel

/-- The part in a rise. -/
def rising (phase : RisePhase) (timer : RiseTimer) : State :=
  { ready with rails := { Rails.reset with
      state := .rising
      risePhase := some phase
      riseTimer := timer
      settleValue := some 5
      settleTimer := if phase = .settling then some 5 else none } }

theorem test_power_good : after .powerGoodAssert (rising .waiting (.running 20)) (fun t =>
    decide (t.rails.risePhase = some .settling) && decide (t.rails.settleTimer = some 5)) = true := by decide +kernel

theorem test_rise_timeout : after .riseTimerExpiry (rising .waiting (.running 20)) (fun t =>
    decide (t.rails.state = .fault) && decide (t.rails.faultCause = some .railTimeout)) = true := by decide +kernel

/-- R99: a rise that ends without demand goes to HOLDING. -/
theorem test_settle_without_demand : after .settleTimerExpiry (rising .settling (.running 20)) (fun t =>
    decide (t.rails.state = .holding) && decide (t.rails.holdTimer = some 1000)) = true := by decide +kernel

theorem test_hold_expiry : after .holdTimerExpiry
    { ready with rails := { Rails.reset with state := .holding, holdTimer := some 1000 } } (fun t =>
      decide (t.rails.state = .falling) && decide (t.rails.fallTimer = some 30)) = true := by decide +kernel

theorem test_fall_expiry : after .fallTimerExpiry
    { ready with rails := { Rails.reset with state := .falling, fallTimer := some 30 } } (fun t =>
      decide (t.rails = Rails.reset)) = true := by decide +kernel

theorem test_conversion_start : after .conversionStart ready (fun t => t.temp.converting) = true := by decide +kernel

/-- R84: a half is rounded upward, and the result is limited. -/
theorem test_rounding : roundSensor { num := 43, den := 2 } = 22 ∧ roundSensor { num := -43, den := 2 } = -21 ∧
    roundSensor { num := 200, den := 1 } = 85 ∧ roundSensor { num := -90, den := 2 } = -40 := by decide +kernel

theorem test_conversion_complete : after (.conversionComplete { num := 43, den := 2 })
    { ready with temp := { ready.temp with converting := true } } (fun t =>
      decide (t.temp.reading = some { value := 22, age := 0 }) && !t.temp.converting) = true := by decide +kernel

/-- R87: the rise from STALE_LIMIT queues Temp Stale with age 121. -/
theorem test_stale : after .readingBecomesStale
    { ready with temp := { ready.temp with reading := some { value := 21, age := 120 } } } (fun t =>
      decide (t.notices.items = [.tempStale 21 121])) = true := by decide +kernel

/-- R86: the age stops at 65,535. -/
theorem test_age_stops : after .ageRise { ready with temp := { ready.temp with reading := some { value := 21, age := 65535 } } }
    (fun t => decide (t.temp.reading = some { value := 21, age := 65535 })) = true := by decide +kernel

theorem test_pin_reset : after .pinReset busy (fun t =>
    decide (t = { State.reset with pending := busy.pending })) = true := by decide +kernel

theorem test_start_up : after .startUp State.reset (fun t => decide (t.phase = .startUp) && t.temp.converting) = true := by
  decide +kernel

theorem test_start_up_end : after .startUpEnd { State.reset with phase := .startUp } (fun t =>
    decide (t.phase = .running ∧ t.link.receiver = .hunt ∧ t.startUps = 1)) = true := by decide +kernel

theorem test_start_up_end_character : exec .startUpEnd { State.reset with phase := .startUp, startUps := 3 } = .next
    { State.reset with phase := .running, startUps := 4, link := { Link.afterReset .pin with
      straddling := Config.characterInProgress 3 } } := rfl

/-- R185: a byte whose character straddles the end of start-up is discarded, be it 0x5A. -/
theorem test_straddling_byte : after (.receivedByte 0x5A) { ready with link := { ready.link with straddling := true } }
    (fun t => decide (t.link.receiver = .hunt) && !t.link.straddling) = true := by decide +kernel

/-! ### Witnesses: for each statement of Certificates/Slice0 with hypotheses, a state and operands that meet them -/

/-- An entry that waits alone, not held, in normal running, is the one taken. -/
theorem asked (code : RequestCode) (p : List Byte) (s : State) (h1 : s.phase = .running)
    (h2 : s.link.restartTaken = false) (h3 : held s (entryOf code p) = false) :
    takes (ask code p s) code (entryOf code p) := by
  refine ⟨?_, requestCodeOf_requestCodeByte code⟩
  unfold nextRequest
  rw [if_pos ⟨h1, h2⟩]
  have h : oldestWaiting (ask code p s) = some (entryOf code p) := rfl
  rw [h]
  have h' : held (ask code p s) (entryOf code p) = false := h3
  simp [h']

/-- A completed frame with the right CRC is a frame received. -/
theorem framed (cls seq code : Byte) (payload : List Byte) (s : State) (h : s.phase = .running)
    (hc : crcMatches (payload.length + 3) (cls :: seq :: code :: payload)
      (byteOf (crc16 (frameCore cls seq code payload)).toNat)
      (byteOf ((crc16 (frameCore cls seq code payload)).toNat / 256)) = true) :
    frameReceived (received cls seq code payload s) cls seq code payload :=
  ⟨h, _, _, _, rfl, hc⟩

theorem test_witness_StepRunsFrontCommand : State.reset.pending = [] ∧ busy.pending ≠ [] := ⟨rfl, by decide⟩

theorem test_witness_CommandsCompleteAndKeepTheQueue : instrWellFormed .halt = true ∧
    exec .halt State.reset = .next State.reset := ⟨rfl, rfl⟩

theorem test_witness_PinResetSetsThePlanes : (0 < 800 ∧ 0 < 600) ∧ 799 < 800 ∧ 599 < 600 := by decide

theorem test_witness_PinResetAndStartUp : State.reset.phase = .resetHeld ∧
    ({ State.reset with phase := .startUp } : State).phase = .startUp := ⟨rfl, rfl⟩

/-- The busy part as the reply of a Restart goes out. -/
def restarting : State :=
  { busy with link := { busy.link with transmitter := .sendingReply (okReply 7 0x05 .restart) true, restartTaken := true } }

theorem test_witness_RestartClearsTheBlocks :
    restarting.link.transmitter = .sendingReply (okReply 7 0x05 .restart) true ∧
      (okReply 7 0x05 .restart).effect = .restart := ⟨rfl, rfl⟩

/-- Each job of the busy part is sound. -/
theorem busy_jobs_sound : ∀ j ∈ busy.raster.jobs, jobSound j := by
  intro j hj
  have h : j ∈ [({ number := 1, kind := .fill (reg 10 0 2 1) 5, progress := .running 1 (planeOf 2 1 5) } : Job)] := hj
  rw [List.mem_singleton] at h
  subst h
  exact ⟨trivial, by decide, by decide⟩

theorem busy_planes : PlanesLaw busy := ⟨planes_reset.1, planes_reset.2.1, planes_reset.2.2, busy_jobs_sound⟩

/-- The slots of the busy part. -/
theorem busy_slot (i : Fin 8) (u : Update) (h : slotUpdate busy.slots[i] = some u) :
    (i = 0 ∧ u = updateOf 1 3 (reg 0 0 2 2)) ∨ (i = 1 ∧ u = updateOf 2 0 (reg 4 4 2 2)) := by
  have hs : ∀ j : Fin 8, slotUpdate busy.slots[j] = if j = 0 then some (updateOf 1 3 (reg 0 0 2 2))
      else if j = 1 then some (updateOf 2 0 (reg 4 4 2 2)) else none := by decide +kernel
  rw [hs i] at h
  by_cases h0 : i = 0
  · rw [if_pos h0] at h; cases h; exact .inl ⟨h0, rfl⟩
  · rw [if_neg h0] at h
    by_cases h1 : i = 1
    · rw [if_pos h1] at h; cases h; exact .inr ⟨h1, rfl⟩
    · rw [if_neg h1] at h; cases h

theorem busy_apart : SlotsApart busy := by
  intro i j u v hij hu hv
  rcases busy_slot i u hu with ⟨rfl, rfl⟩ | ⟨rfl, rfl⟩ <;> rcases busy_slot j v hv with ⟨rfl, rfl⟩ | ⟨rfl, rfl⟩
  · exact absurd rfl hij
  · decide
  · decide
  · exact absurd rfl hij

theorem busy_bank : BankLaw busy :=
  ⟨by decide, fun bank => by cases bank <;> decide, by decide, fun bank => by cases bank <;> decide⟩

theorem test_witness_RestartWritesThePlanes : PlanesLaw restarting ∧ SlotsApart restarting ∧
    restarting.link.transmitter = .sendingReply (okReply 7 0x05 .restart) true ∧
    restarting.slots[(0 : Fin 8)] = .driving (updateOf 1 3 (reg 0 0 2 2)) ∧ rectContains ⟨0, 0, 2, 2⟩ 1 1 = true ∧
    restarting.slots[(1 : Fin 8)] = .armed (updateOf 2 0 (reg 4 4 2 2)) ∧ rectContains ⟨4, 4, 2, 2⟩ 5 5 = true ∧
    ¬ inActiveSlot restarting 799 599 := by
  refine ⟨busy_planes, busy_apart, rfl, rfl, by decide, rfl, by decide, ?_⟩
  rintro ⟨i, u, hu, hc⟩
  rcases busy_slot i u hu with ⟨rfl, rfl⟩ | ⟨rfl, rfl⟩ <;> revert hc <;> decide

theorem test_witness_ReceiverTakesEachByte : ready.phase = .running ∧ State.reset.phase ≠ .running ∧
    ready.link.straddling = false ∧ ({ ready.link with straddling := true } : Link).straddling = true :=
  ⟨rfl, by decide, rfl, rfl⟩

theorem test_witness_SentFrameIsReceived : ready.phase = .running ∧ ready.link.receiver = .hunt ∧
    ready.link.straddling = false ∧ ready.pending = [] ∧
    (List.replicate 1024 (0 : Byte)).length ≤ 1024 ∧ ([] : List Byte).length ≤ 1024 :=
  ⟨rfl, rfl, rfl, rfl, Nat.le_of_eq List.length_replicate, Nat.zero_le _⟩

theorem test_witness_DamagedFramesAreCounted : ready.link.receiver = .hunt ∧
    (∃ s : State, s.phase = .running ∧ ∃ low, s.link.receiver = .length low) ∧
    (∃ s : State, s.phase = .running ∧ ∃ len held, s.link.receiver = .body len held) ∧
    (∃ s : State, s.phase = .running ∧ ∃ len held low, s.link.receiver = .check len held low) ∧
    (crcMatches 3 [1, 9, 2] 0 0 = false) ∧
    frameReceived (received 0x03 9 0x02 [] ready) 0x03 9 0x02 [] ∧ (0x03 : Byte) &&& 0x7F ≠ 0x01 :=
  ⟨rfl, ⟨{ ready with link := { ready.link with receiver := .length none } }, rfl, none, rfl⟩,
    ⟨{ ready with link := { ready.link with receiver := .body 3 [] } }, rfl, 3, [], rfl⟩,
    ⟨{ ready with link := { ready.link with receiver := .check 3 [1, 9, 2] none } }, rfl, 3, _, none, rfl⟩,
    by decide +kernel, framed _ _ _ _ _ rfl (by decide +kernel), by decide⟩

/-- A table of `n` outstanding requests with SEQ 10 and on. -/
def tableOf (n : Nat) : List Request := (List.range n).map fun k => { entryOf .getStatus [] with seq := byteOf (10 + k) }

/-- The part with a table of `n` requests and SEQ 6 cached. -/
def tabled (n : Nat) : State :=
  { ready with link := { ready.link with table := tableOf n, cache := [{ seq := 6, code := 2, payload := [0] }] } }

theorem test_witness_RequestsAreAdmitted :
    frameReceived (received 0x81 6 0x02 [] { ready with link := State.reset.link }) 0x81 6 0x02 [] ∧
    (0x81 : Byte) &&& 0x7F = 0x01 ∧ (0x81 : Byte).getLsbD 7 = true ∧ (0x01 : Byte).getLsbD 7 = false ∧
    frameReceived (received 0x81 6 0x02 [] (tabled 7)) 0x81 6 0x02 [] ∧
    frameReceived (received 0x01 10 0x02 [] (tabled 8)) 0x01 10 0x02 [] ∧
    frameReceived (received 0x01 5 0x02 [] (tabled 8)) 0x01 5 0x02 [] ∧
    (tabled 7).link.sessionOpen = true ∧ (tabled 7).link.table.length < 8 ∧ 8 ≤ (tabled 8).link.table.length ∧
    (tabled 8).link.replies.length < 16 ∧
    (tableSeqs (tabled 8).link.table ++ (tabled 8).link.cache.map (·.seq)).Nodup ∧
    (10 : Byte) ∈ tableSeqs (tabled 8).link.table ∧ (5 : Byte) ∉ tableSeqs (tabled 8).link.table ∧
    (6 : Byte) ∉ tableSeqs (tabled 7).link.table :=
  ⟨framed _ _ _ _ _ rfl (by decide +kernel), by decide, by decide, by decide, framed _ _ _ _ _ rfl (by decide +kernel),
    framed _ _ _ _ _ rfl (by decide +kernel), framed _ _ _ _ _ rfl (by decide +kernel), rfl, by decide, by decide, by decide,
    by decide, by decide, by decide, by decide⟩

theorem test_witness_HelloOpensTheSession :
    frameReceived (received 0x01 9 0x01 [1] { ready with link := State.reset.link }) 0x01 9 0x01 [1] ∧
    frameReceived (received 0x81 9 0x01 [] { ready with link := State.reset.link }) 0x81 9 0x01 [] ∧
    frameReceived (received 0x01 9 0x01 [2] { ready with link := State.reset.link }) 0x01 9 0x01 [2] ∧
    State.reset.link.sessionOpen = false ∧ State.reset.link.restartTaken = false ∧ State.reset.link.replies.length < 16 :=
  ⟨framed _ _ _ _ _ rfl (by decide +kernel), framed _ _ _ _ _ rfl (by decide +kernel),
    framed _ _ _ _ _ rfl (by decide +kernel), rfl, rfl, by decide⟩

/-- The busy part after a Hello whose reply is in the cache. -/
def greeted : State := { busy with link := { busy.link with cache := [{ seq := 9, code := 0x01, payload := [0] }] } }

theorem test_witness_HelloReopensTheSession :
    frameReceived (received 0x01 9 0x01 [1] busy) 0x01 9 0x01 [1] ∧ busy.link.sessionOpen = true ∧
    busy.link.restartTaken = false ∧ (0x01 : Byte).getLsbD 7 = false ∧
    frameReceived (received 0x81 9 0x01 [1] busy) 0x81 9 0x01 [1] ∧ (0x81 : Byte) &&& 0x7F = 0x01 ∧
    (∀ r ∈ busy.link.cache, r.seq = 9 → r.code ≠ 0x01) ∧
    frameReceived (received 0x01 9 0x01 [] busy) 0x01 9 0x01 [] ∧
    frameReceived (received 0x01 9 0x01 [2] busy) 0x01 9 0x01 [2] ∧
    frameReceived (received 0x81 9 0x01 [1] greeted) 0x81 9 0x01 [1] ∧ (0x81 : Byte).getLsbD 7 = true ∧
    (greeted.link.cache.map (·.seq)).Nodup ∧ { seq := 9, code := 0x01, payload := [0] } ∈ greeted.link.cache ∧
    frameReceived (received 0x81 9 0x01 [1] restarting) 0x81 9 0x01 [1] ∧ restarting.link.restartTaken = true :=
  ⟨framed _ _ _ _ _ rfl (by decide +kernel), rfl, rfl, by decide, framed _ _ _ _ _ rfl (by decide +kernel), by decide,
    by decide, framed _ _ _ _ _ rfl (by decide +kernel), framed _ _ _ _ _ rfl (by decide +kernel),
    framed _ _ _ _ _ rfl (by decide +kernel), by decide, by decide, List.mem_cons_self,
    framed _ _ _ _ _ rfl (by decide +kernel), rfl⟩

/-- The part with a reply on the line. -/
def sending (origin : ReplyOrigin) (effect : ReplyEffect) (s : State) : State :=
  { s with link := { s.link with transmitter := .sendingReply { okReply 7 0x02 effect with origin := origin } true } }

theorem test_witness_RepliesAreSentInOrder :
    busy.phase = .running ∧ busy.link.transmitter = .idle ∧ busy.link.replies = [okReply 7 0x02 .nothing] ∧
    (sending .entry .nothing busy).link.transmitter = .sendingReply (okReply 7 0x02 .nothing) true ∧
    (sending .hello .nothing busy).link.transmitter = .sendingReply { okReply 7 0x02 .nothing with origin := .hello } true ∧
    (∃ r ∈ busy.link.table, r.seq = 7 ∧ r.orphaned = false) ∧ (∀ r ∈ ready.link.table, r.seq = 7 → r.orphaned = true) ∧
    (sending .forgotten .nothing busy).link.transmitter =
      .sendingReply { okReply 7 0x02 .nothing with origin := .forgotten } true ∧
    (sending .entry (.lineRate 1843200) busy).link.transmitter = .sendingReply (okReply 7 0x02 (.lineRate 1843200)) true ∧
    (∀ len held low high, (sending .entry (.lineRate 1843200) busy).link.receiver ≠ .complete len held low high) :=
  ⟨rfl, rfl, rfl, rfl, rfl, by decide, by decide, rfl, rfl, fun _ _ _ _ h => nomatch (show Receiver.hunt = .complete _ _ _ _ from h)⟩

theorem test_witness_NoticesGoAgainstCredit :
    ∃ s : State, s.phase = .running ∧ s.link.transmitter = .idle ∧ s.link.replies = [] ∧
      s.notices.items = [.bankRetired .b] ∧ 0 < s.notices.credit ∧ ready.notices.credit = 0 ∧ busy.link.replies ≠ [] ∧
      ∃ q : State, q.link.transmitter = .sendingNotice 0 (.bankRetired .a) :=
  ⟨{ busy with link := ready.link }, rfl, rfl, rfl, rfl, by decide, rfl, by decide,
    { ready with link := { ready.link with transmitter := .sendingNotice 0 (.bankRetired .a) } }, rfl⟩

/-- The part with a request EXECUTING before the one that waits. -/
def queuedBehind (code : Byte) : State :=
  { ready with link := { ready.link with
      table := [{ entryOf .getStatus [] with state := .executing, seq := 3 }, { entryOf .halt [1] with code := code }] } }

theorem test_witness_AnswersAndOffersJoinTheirQueues :
    (queuedBehind 0x13).link.table = [{ entryOf .getStatus [] with state := .executing, seq := 3 }] ++ entryOf .halt [1] :: [] ∧
    (∀ q ∈ [{ entryOf .getStatus [] with state := .executing, seq := 3 }], q.state ≠ .waiting) ∧
    (entryOf .halt [1]).state = .waiting := ⟨rfl, by decide, rfl⟩

theorem test_witness_HeldDispatcherTakesNothing : State.reset.phase ≠ .running ∧ restarting.link.restartTaken = true ∧
    (∀ r ∈ ready.link.table, r.state ≠ .waiting) ∧
    (∃ before r after, (ask .loadOpen [] busy).link.table = before ++ r :: after ∧ (∀ q ∈ before, q.state ≠ .waiting) ∧
      r.state = .waiting ∧ held (ask .loadOpen [] busy) r = true) :=
  ⟨by decide, rfl, by decide, [], entryOf .loadOpen [], [], rfl, by decide, rfl, rfl⟩

theorem test_witness_UnknownCodesAreRefused : (queuedBehind 0x7F).phase = .running ∧
    (queuedBehind 0x7F).link.restartTaken = false ∧
    (queuedBehind 0x7F).link.table =
      [{ entryOf .getStatus [] with state := .executing, seq := 3 }] ++ { entryOf .halt [1] with code := 0x7F } :: [] ∧
    held (queuedBehind 0x7F) { entryOf .halt [1] with code := 0x7F } = false ∧
    ∀ c, requestCodeByte c ≠ ({ entryOf .halt [1] with code := 0x7F } : Request).code :=
  ⟨rfl, rfl, rfl, by decide, fun c => by cases c <;> decide⟩

theorem test_witness_GetStatusReportsEveryBlock :
    takes (ask .getStatus [] busy) .getStatus (entryOf .getStatus []) ∧
    takes (ask .getStatus [0] busy) .getStatus (entryOf .getStatus [0]) := ⟨asked _ _ _ rfl rfl rfl, asked _ _ _ rfl rfl rfl⟩

/-- The part with a reading of age `age`. -/
def aged (age : Nat) : State := { ready with temp := { ready.temp with reading := some { value := 21, age := age } } }

/-- The part with source HOST. -/
def hostSource : State :=
  { ready with params := { ready.params with tempSource := .fromHost }, temp := { reading := none, converting := false, nextStart := none } }

theorem test_witness_ParametersAreReadAndStored :
    takes (ask .getParameter [0x09] ready) .getParameter (entryOf .getParameter [paramByte .lineRate]) ∧
    takes (ask .getParameter [0x0A] ready) .getParameter (entryOf .getParameter [0x0A]) ∧ (∀ q, paramByte q ≠ 0x0A) ∧
    takes (ask .setParameter [] ready) .setParameter (entryOf .setParameter []) ∧
    takes (ask .setParameter (paramByte .lineRate :: leBytes 4 230400) ready) .setParameter
      (entryOf .setParameter (paramByte .lineRate :: leBytes 4 230400)) ∧
    paramInRange .lineRate 230400 = true ∧ 230400 ≠ paramValue .lineRate ready.params ∧
    paramInRange .lineRate 115201 = false ∧ paramInRange .frameRate 85 = true ∧ 85 = paramValue .frameRate ready.params ∧
    takes (ask .setParameter [0x06, 1, 0, 0, 0] ready) .setParameter (entryOf .setParameter [0x06, 1, 0, 0, 0]) ∧
    1 ≠ paramValue .tempSource ready.params ∧
    takes (ask .setParameter [0x06, 0, 0, 0, 0] hostSource) .setParameter (entryOf .setParameter [0x06, 0, 0, 0, 0]) ∧
    0 ≠ paramValue .tempSource hostSource.params ∧
    takes (ask .setParameter (0x08 :: leBytes 4 10) (aged 11)) .setParameter (entryOf .setParameter (0x08 :: leBytes 4 10)) ∧
    11 ≤ (aged 11).params.staleLimit ∧
    takes (ask .setParameter (0x08 :: leBytes 4 3600) (aged 121)) .setParameter
      (entryOf .setParameter (0x08 :: leBytes 4 3600)) ∧ (aged 121).params.staleLimit < 121 ∧
    hostSource.temp.reading = none ∧
    takes (ask .setParameter (0x08 :: leBytes 4 3600) hostSource) .setParameter
      (entryOf .setParameter (0x08 :: leBytes 4 3600)) :=
  ⟨asked _ _ _ rfl rfl rfl, asked _ _ _ rfl rfl rfl, fun q => by cases q <;> decide, asked _ _ _ rfl rfl rfl,
    asked _ _ _ rfl rfl rfl, by decide, by decide, by decide, by decide, by decide, asked _ _ _ rfl rfl rfl, by decide,
    asked _ _ _ rfl rfl rfl, by decide, asked _ _ _ rfl rfl rfl, by decide, asked _ _ _ rfl rfl rfl, by decide, rfl,
    asked _ _ _ rfl rfl rfl⟩

theorem test_witness_RestartAndGrantAreTaken : takes (ask .restart [] ready) .restart (entryOf .restart []) ∧
    takes (ask .restart [0] ready) .restart (entryOf .restart [0]) ∧
    takes (ask .grantNotices [] ready) .grantNotices (entryOf .grantNotices []) ∧
    takes (ask .grantNotices [0] ready) .grantNotices (entryOf .grantNotices [0]) ∧
    takes (ask .grantNotices [255] ready) .grantNotices (entryOf .grantNotices [255]) :=
  ⟨asked _ _ _ rfl rfl rfl, asked _ _ _ rfl rfl rfl, asked _ _ _ rfl rfl rfl, asked _ _ _ rfl rfl rfl,
    asked _ _ _ rfl rfl rfl⟩

/-- A Submit Update of the rectangle at column 2, row 2, of mode 0, by policy. -/
def submitBytes (policy : Policy) : List Byte :=
  rectBytes (reg 2 2 2 2).val ++ [byteOf 0, policyByte policy, flagByte true, flagByte false]

theorem test_witness_SubmitUpdateIsAccepted :
    takes (ask .submitUpdate (submitBytes .refuse) busy) .submitUpdate (entryOf .submitUpdate (submitBytes .refuse)) ∧
    takes (ask .submitUpdate (submitBytes .wait) busy) .submitUpdate (entryOf .submitUpdate (submitBytes .wait)) ∧
    activeBank busy ≠ none ∧ activeMode busy 0 ≠ none ∧ busy.queue.length < 16 ∧
    overlapsSlot busy (reg 30 30 2 2).val = false ∧ overlapsEntry busy.queue (reg 30 30 2 2).val = false :=
  ⟨asked _ _ _ rfl rfl rfl, asked _ _ _ rfl rfl rfl, by decide, by decide +kernel, by decide, by decide, by decide⟩

/-- The busy part with 16 entries queued. -/
def fullQueue : State := { busy with queue := (List.range 16).map fun k => queued (20 + k) (reg 40 40 1 1) }

theorem test_witness_SubmitUpdateChecksInOrder :
    takes (ask .submitUpdate [] busy) .submitUpdate (entryOf .submitUpdate []) ∧
    takes (ask .submitUpdate (rectBytes ⟨65535, 0, 1, 1⟩ ++ [16, 0, 0, 0]) busy) .submitUpdate
      (entryOf .submitUpdate (rectBytes ⟨65535, 0, 1, 1⟩ ++ [16, 0, 0, 0])) ∧
    takes (ask .submitUpdate (rectBytes ⟨65535, 0, 1, 1⟩ ++ [15, 1, 1, 1]) busy) .submitUpdate
      (entryOf .submitUpdate (rectBytes ⟨65535, 0, 1, 1⟩ ++ [15, 1, 1, 1])) ∧ rectValid ⟨65535, 0, 1, 1⟩ = false ∧
    activeBank State.reset = none ∧ activeMode busy 15 = none ∧ activeBank busy ≠ none ∧ activeMode busy 0 ≠ none ∧
    16 ≤ fullQueue.queue.length ∧ overlapsSlot busy ⟨1, 1, 1, 1⟩ = true ∧ overlapsEntry busy.queue ⟨2, 2, 1, 1⟩ = true ∧
    rectValid ⟨1, 1, 1, 1⟩ = true :=
  ⟨asked _ _ _ rfl rfl rfl, asked _ _ _ rfl rfl rfl, asked _ _ _ rfl rfl rfl, by decide, by decide, by decide +kernel,
    by decide, by decide +kernel, by decide, by decide, by decide, by decide⟩

/-- The law of the Update Queue on the busy part. -/
theorem busy_queue : QueueLaw busy :=
  ⟨by decide, by decide, by unfold isUpdateId; decide, by unfold isUpdateId; decide, by decide⟩

theorem test_witness_UpdateIdIsFresh : QueueLaw busy ∧ busy.queue.length < 16 ∧ busy.idCounter ∉ idsInUse busy :=
  ⟨busy_queue, by decide, by decide⟩

theorem test_witness_CancelAndQueryFindTheUpdate :
    (∀ code, code = .cancelUpdate ∨ code = .queryUpdate →
      takes (ask code [1] busy) code (entryOf code [1]) ∧ takes (ask code (leBytes 2 3) busy) code (entryOf code (leBytes 2 3)) ∧
      takes (ask code (leBytes 2 1) busy) code (entryOf code (leBytes 2 1)) ∧
      takes (ask code (leBytes 2 65535) busy) code (entryOf code (leBytes 2 65535))) ∧
    3 ∈ busy.queue.map (·.id) ∧ 1 ∈ (activeUpdates busy).map (·.id) ∧ 1 ∉ busy.queue.map (·.id) ∧ 65535 ∉ idsInUse busy ∧
    busy.queue = [] ++ queued 3 (reg 1 1 2 2) :: [] ∧ (idsInUse busy).Nodup ∧
    busy.slots[(0 : Fin 8)] = .driving (updateOf 1 3 (reg 0 0 2 2)) ∧
    busy.slots[(1 : Fin 8)] = .armed (updateOf 2 0 (reg 4 4 2 2)) := by
  refine ⟨fun code h => ?_, by decide, by decide, by decide, by decide, rfl, by decide, rfl, rfl⟩
  rcases h with rfl | rfl <;>
    exact ⟨asked _ _ _ rfl rfl rfl, asked _ _ _ rfl rfl rfl, asked _ _ _ rfl rfl rfl, asked _ _ _ rfl rfl rfl⟩

/-- The evaluation of the busy part leaves its entry, which slot 0 holds back (condition (f)); in the ready
part the same entry is startable. -/
theorem test_witness_EvaluationLeavesNothingStartable :
    (evaluateStarts busy).queue = [] ++ queued 3 (reg 1 1 2 2) :: [] ∧
    unmetByte (unmetConditions busy [] (queued 3 (reg 1 1 2 2))) = 0x20 ∧
    startable ready [] (queued 3 (reg 1 1 2 2)) = true := ⟨by decide +kernel, by decide, by decide⟩

/-- Two overlapping entries, the older behind slot 0. -/
def overtaking : State := { busy with queue := [queued 3 (reg 1 1 2 2), queued 5 (reg 2 2 2 1)] }

theorem test_witness_NoOvertaking : (overtaking.queue.map (·.id)).Nodup ∧
    overtaking.queue = [] ++ queued 3 (reg 1 1 2 2) :: [] ++ queued 5 (reg 2 2 2 1) :: [] ∧
    rectsOverlap (reg 1 1 2 2).val (reg 2 2 2 1).val = true ∧
    queued 3 (reg 1 1 2 2) ∈ (evaluateStarts overtaking).queue := by
  refine ⟨by decide, rfl, by decide, ?_⟩
  have h : (evaluateStarts overtaking).queue = [queued 3 (reg 1 1 2 2), queued 5 (reg 2 2 2 1)] := by decide +kernel
  rw [h]
  exact List.mem_cons_self

/-- The image of mode 0 without an UNKNOWN row and with band bound 30. -/
def warmImage : List Byte := [1, 1, 1, 30, 0, 2, 0, 3] ++ (List.replicate 32 [1, 1, 3]).flatten

/-- The part with one entry, an ACTIVE bank of the warm image, and a reading. -/
def warm (value : Int) : State :=
  { ready with
    queue := [queued 3 (reg 1 1 2 2)]
    temp := { ready.temp with reading := some { value := value, age := 0 } }
    bankA := { state := .active, contents := warmImage, declared := some { size := 104, crc := 0 }, refCount := 0 } }

theorem test_witness_FailedStartChecksEndTheEntry : (warm 30).queue = [] ++ queued 3 (reg 1 1 2 2) :: [] ∧
    lowestFree (warm 30) ≠ none ∧ activeMode { warm 30 with bankA := Bank.none } 0 = none ∧
    activeBank (warm 30) = some .a ∧ (∃ m, activeMode (warm 30) 0 = some m ∧ m.unknownRow = false ∧ m.bands[0]? ≠ none) ∧
    bandOfReading (boundsOfBytes (bankAt (warm 29) .a).contents) 29 = none ∧
    bandOfReading (boundsOfBytes (bankAt (warm 30) .a).contents) 30 = some 0 ∧ sourceUnknown (warm 30) (reg 1 1 2 2).val = true ∧
    PlanesLaw (warm 30) ∧ shownUnknown (warm 30) (reg 1 1 2 2) :=
  ⟨rfl, by decide, by decide, by decide,
    ⟨{ id := 0, twoLevel := true, unknownRow := false,
       bands := [{ frames := 3, table := List.replicate 32 [{ drive := .pos, frames := 3 }] }] },
      by decide +kernel, rfl, by decide +kernel⟩,
    by decide +kernel, by decide +kernel, by decide +kernel, ⟨planes_reset.1, planes_reset.2.1, planes_reset.2.2, List.forall_mem_nil _⟩,
    2, 2, by decide, by decide +kernel⟩

/-- A part whose Shown plane is white all over. -/
def whiteShown : State := { warm 30 with shown := planeOf 800 600 (.level 15) }

theorem whiteShown_known : ¬ shownUnknown whiteShown (reg 1 1 2 2) := by
  rintro ⟨x, y, -, h⟩
  rw [show whiteShown.shown = planeOf 800 600 (.level 15) from rfl, planeAt_planeOf] at h
  split at h <;> cases h

/-- The ready part with one startable entry, in a rail state. -/
def starting (rails : Rails) (powerGood : Bool) : State :=
  { ready with queue := [queued 3 (reg 1 1 2 2)], rails := rails, powerGood := powerGood }

theorem test_witness_StartableEntriesArmInOrder : busy.slots[(2 : Fin 8)] = .free ∧
    (∀ j : Fin 8, j < 2 → busy.slots[j] ≠ .free) ∧ (bankAt busy .a).state = .active ∧
    (bankAt busy (otherBank .a)).state ≠ .active ∧ activeMode busy 0 = some soundMode ∧
    busy.temp.reading = some { value := 21, age := 0 } ∧ bandOfReading (boundsOfBytes (bankAt busy .a).contents) 21 = some 0 ∧
    soundMode.bands[0]? ≠ none ∧ soundMode.unknownRow = true ∧
    (starting .reset true).queue = [] ++ queued 3 (reg 1 1 2 2) :: [] ∧
    startable (starting .reset true) [] (queued 3 (reg 1 1 2 2)) = true ∧
    startable busy [] (queued 3 (reg 1 1 2 2)) = false ∧ ready.queue = [] ∧
    PlanesLaw whiteShown ∧ ¬ shownUnknown whiteShown (reg 1 1 2 2) :=
  ⟨rfl, by decide, rfl, by decide, by decide +kernel, rfl, by decide +kernel, by decide, rfl, rfl, by decide, by decide, rfl,
    ⟨planes_reset.1, planes_reset.2.1, planeWf_planeOf _ _ _, List.forall_mem_nil _⟩, whiteShown_known⟩

theorem test_witness_ArmingLatchesAndCounts : PlanesLaw busy ∧ rectContains (reg 0 0 800 600).val 799 599 = true ∧
    rectContains (reg 0 0 799 600).val 799 0 = false ∧ planeAt busy.pendingPlane 799 599 = some 15 :=
  ⟨busy_planes, by decide, by decide, by decide +kernel⟩

theorem test_witness_DemandActsOnTheRails : demand busy = true ∧ demand ready = false ∧ demand (evaluateStarts ready) = false ∧
    (∀ b, demand (starting .reset b) = false ∧ demand (evaluateStarts (starting .reset b)) = true) ∧
    (starting .reset false).powerGood = false ∧ (starting .reset true).powerGood = true ∧
    0 < (starting .reset true).params.settle ∧
    demand (evaluateStarts { starting .reset true with params := { Params.default with settle := 0 } }) = true ∧
    demand (evaluateStarts (starting { Rails.reset with state := .holding, holdTimer := some 1000 } true)) = true ∧
    demand (evaluateStarts (starting { Rails.reset with state := .falling, fallTimer := some 30 } true)) = true ∧
    demand (evaluateStarts (rising .waiting (.running 20))) = false := by
  refine ⟨by decide, by decide, by decide, fun b => ?_, rfl, rfl, by decide, by decide +kernel, by decide +kernel,
    by decide +kernel, by decide +kernel⟩
  cases b <;> exact ⟨by decide, by decide +kernel⟩

theorem test_witness_BoundariesAdvanceOrAbortTheSlots : busy.frameTimer = .running 85 ∧ busy.halt = .running ∧
    busy.rails.state = .on ∧ (updateOf 1 3 (reg 0 0 2 2)).index = (updateOf 1 3 (reg 0 0 2 2)).frames ∧
    (updateOf 1 2 (reg 0 0 2 2)).index < (updateOf 1 2 (reg 0 0 2 2)).frames ∧
    ({ busy with halt := .halting } : State).halt = .halting ∧ PlanesLaw busy ∧ SlotsApart busy ∧ BankLaw busy ∧
    (reg 0 0 2 2).val = ⟨0, 0, 2, 2⟩ ∧ rectContains (reg 0 0 2 2).val 1 1 = true :=
  ⟨rfl, rfl, rfl, rfl, by decide, rfl, busy_planes, busy_apart, busy_bank, rfl, by decide⟩

theorem test_witness_SlotEndsWriteTheirRectangle : PlanesLaw busy ∧ 799 < 800 ∧ 599 < 600 ∧
    busy.slots[(0 : Fin 8)] = .driving (updateOf 1 3 (reg 0 0 2 2)) ∧
    busy.slots[(1 : Fin 8)] = .armed (updateOf 2 0 (reg 4 4 2 2)) ∧
    (bankAt { busy with bankA := imageBank .retiring 1 } .a).state = .retiring ∧
    (bankAt { busy with bankA := imageBank .retiring 1 } .a).refCount = 1 ∧ (bankAt busy .a).state ≠ .retiring :=
  ⟨busy_planes, by decide, by decide, rfl, rfl, rfl, rfl, by decide⟩

/-- The part in a rise with slot 0 ARMED. -/
def armedInRise : State :=
  { rising .waiting (.running 20) with
    slots := State.reset.slots.set 0 (.armed (updateOf 1 0 (reg 0 0 2 2)))
    bankA := imageBank .active 1 }

theorem armedInRise_bank : BankLaw armedInRise :=
  ⟨by decide, fun bank => by cases bank <;> decide, by decide, fun bank => by cases bank <;> decide⟩

theorem armedInRise_apart : SlotsApart armedInRise := by
  have h : ∀ j : Fin 8, j ≠ 0 → slotUpdate armedInRise.slots[j] = none := by decide
  intro i j u v hij hu hv
  by_cases hi : i = 0
  · rw [h j fun hj => hij (hi.trans hj.symm)] at hv; cases hv
  · rw [h i hi] at hu; cases hu

theorem armedInRise_planes : PlanesLaw armedInRise :=
  ⟨planes_reset.1, planes_reset.2.1, planes_reset.2.2, fun _ h => nomatch (show _ ∈ ([] : List Job) from h)⟩

theorem test_witness_HaltAndResume : takes (ask .halt [] busy) .halt (entryOf .halt []) ∧
    takes (ask .halt [2] busy) .halt (entryOf .halt [2]) ∧
    takes (ask .halt [flagByte true] busy) .halt (entryOf .halt [flagByte true]) ∧ busy.halt ≠ .halted ∧
    busy.rails.state = .on ∧ demand busy = true ∧
    takes (ask .halt [flagByte false] armedInRise) .halt (entryOf .halt [flagByte false]) ∧
    armedInRise.rails.state ≠ .on ∧ (∀ i : Fin 8, isDriving armedInRise.slots[i] = false) ∧
    PlanesLaw armedInRise ∧ SlotsApart armedInRise ∧ BankLaw armedInRise ∧
    takes (ask .halt [flagByte false] { ready with halt := .halted }) .halt (entryOf .halt [flagByte false]) ∧
    takes (ask .resume [0] ready) .resume (entryOf .resume [0]) ∧
    takes (ask .resume [] { busy with halt := .halting }) .resume (entryOf .resume []) ∧
    takes (ask .resume [] { ready with halt := .halted }) .resume (entryOf .resume []) :=
  ⟨asked _ _ _ rfl rfl rfl, asked _ _ _ rfl rfl rfl, asked _ _ _ rfl rfl rfl, by decide, rfl, by decide,
    asked _ _ _ rfl rfl rfl, by decide, by decide, armedInRise_planes, armedInRise_apart, armedInRise_bank,
    asked _ _ _ rfl rfl rfl, asked _ _ _ rfl rfl rfl, asked _ _ _ rfl rfl rfl, asked _ _ _ rfl rfl rfl⟩

/-- The part with bank B LOADING an image of 64 bytes, with bytes received. -/
def loadingBank (received : Nat) : State :=
  { ready with bankB := { Bank.none with
      state := .loading, contents := List.replicate received 0, declared := some { size := 64, crc := 0 } } }

theorem test_witness_BankRequestsFollowTheState :
    (∀ size, size = 63 ∨ size = 64 ∨ size = 65536 ∨ size = 65537 →
      takes (ask .bankOpen (bankByte .b :: (leBytes 4 size ++ leBytes 4 4294967295)) ready) .bankOpen
        (entryOf .bankOpen (bankByte .b :: (leBytes 4 size ++ leBytes 4 4294967295)))) ∧
    (bankAt ready .b).state = .empty ∧ (bankAt ready .a).state = .active ∧
    (∀ n, n = 0 ∨ n = 1 ∨ n = 1016 ∨ n = 1017 →
      takes (ask .bankData (bankByte .b :: (leBytes 4 0 ++ List.replicate n 0)) (loadingBank 0)) .bankData
        (entryOf .bankData (bankByte .b :: (leBytes 4 0 ++ List.replicate n 0)))) ∧
    (bankAt (loadingBank 0) .b).state = .loading ∧ (bankAt (loadingBank 63) .b).contents.length < 64 ∧
    64 ≤ (bankAt (loadingBank 64) .b).contents.length ∧
    takes (ask .bankVerify [bankByte .b] (loadingBank 64)) .bankVerify (entryOf .bankVerify [bankByte .b]) ∧
    takes (ask .bankErase [bankByte .b] (loadingBank 64)) .bankErase (entryOf .bankErase [bankByte .b]) ∧
    (∀ p : List Byte, p = [] ∨ p = [2] ∨ p = 2 :: List.replicate 8 0 → takes (ask .bankOpen p ready) .bankOpen (entryOf .bankOpen p) ∧
      takes (ask .bankData p ready) .bankData (entryOf .bankData p) ∧
      takes (ask .bankVerify p ready) .bankVerify (entryOf .bankVerify p) ∧
      takes (ask .bankErase p ready) .bankErase (entryOf .bankErase p)) :=
  ⟨fun _ _ => asked _ _ _ rfl rfl rfl, rfl, rfl, fun _ _ => asked _ _ _ rfl rfl rfl, rfl, by decide, by decide,
    asked _ _ _ rfl rfl rfl, asked _ _ _ rfl rfl rfl,
    fun _ _ => ⟨asked _ _ _ rfl rfl rfl, asked _ _ _ rfl rfl rfl, asked _ _ _ rfl rfl rfl, asked _ _ _ rfl rfl rfl⟩⟩

theorem test_witness_BankVerifiesAndActivates :
    takes (ask .bankActivate [] ready) .bankActivate (entryOf .bankActivate []) ∧
    takes (ask .bankActivate [2] ready) .bankActivate (entryOf .bankActivate [2]) ∧
    takes (ask .bankActivate [bankByte .a] ready) .bankActivate (entryOf .bankActivate [bankByte .a]) ∧
    (bankAt ready .a).state = .active ∧ (bankAt ready .b).state = .empty ∧
    (bankAt { ready with bankB := imageBank .loaded 0 } .b).state = .loaded ∧
    (imageBank .verifying 0).declared = some { size := 110, crc := crc32 testImage } ∧
    (imageBank .verifying 0).state = .verifying ∧ walkImage (imageBank .verifying 0).contents = .ok soundImage ∧
    walkImage (testImage ++ [0]) = .error (.trailing, 110) ∧ (bankAt mismatched .b).state = .verifying ∧
    (bankAt mismatched .b).declared = some { size := 9, crc := 0 } ∧
    (0 : BitVec 32) ≠ crc32 (bankAt mismatched .b).contents :=
  ⟨asked _ _ _ rfl rfl rfl, asked _ _ _ rfl rfl rfl, asked _ _ _ rfl rfl rfl, rfl, rfl, rfl, rfl, rfl, test_image_walk, test_image_trailing, rfl, rfl, by decide +kernel⟩

theorem test_witness_ImageWalkReadsTheImage : imageSound soundImage ∧ walkImage testImage = .ok soundImage := by
  refine ⟨?_, test_image_walk⟩
  refine ⟨by decide, by decide, by decide, by decide, by decide, by decide, by decide, fun m hm => ?_⟩
  have h : m = soundMode := List.mem_singleton.mp hm
  subst h
  refine ⟨by decide, rfl, fun d hd => ?_⟩
  have h : d = { frames := 3, table := List.replicate 34 [{ drive := .pos, frames := 3 }] } := List.mem_singleton.mp hd
  subst h
  refine ⟨by decide, by decide, by decide, fun steps hs => ?_⟩
  rw [List.eq_of_mem_replicate hs]
  unfold phaseListSound phaseSum
  decide

theorem test_image_bytes : imageBytes soundImage = testImage := by decide +kernel

theorem test_witness_BandOfAReading : ([-10, 0, 15, 30] : List Int).Pairwise (· < ·) := by decide

/-- A band of F = 3 whose lists are all one POS step of 3 frames. -/
def bandOf (lists : Nat) : BandData := { frames := 3, table := List.replicate lists [{ drive := .pos, frames := 3 }] }

/-- A sixteen-level mode without an UNKNOWN row. -/
def wideMode : ModeRecord := { id := 0, twoLevel := false, unknownRow := false, bands := [bandOf 256] }

/-- The busy part with that mode in bank A. -/
def wide : State :=
  { busy with bankA := { state := .active, contents := [1, 1, 1, 0xD8, 0, 16, 0, 3] ++ (List.replicate 256 [1, 1, 3]).flatten,
                         declared := some { size := 776, crc := 0 }, refCount := 2 } }

theorem test_witness_PanelDriveFollowsTheWaveform : phaseSum [] < 1 ∧ 3 ≤ phaseSum [] + 3 ∧
    phaseSum [{ drive := .pos, frames := 3 }] < 4 ∧ ready.frameTimer = .stopped ∧ busy.frameTimer = .running 85 ∧
    SlotsApart busy ∧ busy.slots[(0 : Fin 8)] = .driving (updateOf 1 3 (reg 0 0 2 2)) ∧
    rectContains (reg 0 0 2 2).val 1 1 = true ∧ planeAt busy.shown 1 1 = some .unknown ∧
    planeAt { busy with target := planeFill ⟨0, 0, 2, 2⟩ (.level 15) busy.target }.target 1 1 = some (.level 15) ∧
    slotMode busy (updateOf 1 3 (reg 0 0 2 2)) = some soundMode ∧ soundMode.bands[0]? = some (bandOf 34) ∧
    soundMode.twoLevel = true ∧ (bandOf 34).table[16 * 2]? = some [{ drive := .pos, frames := 3 }] ∧
    (bandOf 34).table[16 * 2 + 1]? = some [{ drive := .pos, frames := 3 }] ∧
    slotMode wide (updateOf 1 3 (reg 0 0 2 2)) = some wideMode ∧ wideMode.bands[0]? = some (bandOf 256) ∧
    wideMode.twoLevel = false ∧ (bandOf 256).table[15 * 16 + 15]? = some [{ drive := .pos, frames := 3 }] ∧
    (∀ (i : Fin 8) (u : Update), busy.slots[i] = .driving u → rectContains u.rect.val 799 599 = false) := by
  refine ⟨by decide, by decide, by decide, rfl, rfl, busy_apart, rfl, by decide, by decide +kernel, by decide +kernel,
    by decide +kernel, rfl, rfl, by decide, by decide, by decide +kernel, rfl, rfl, by decide +kernel, fun i u hu => ?_⟩
  have h : slotUpdate busy.slots[i] = some u := by rw [hu]; rfl
  rcases busy_slot i u h with ⟨rfl, rfl⟩ | ⟨rfl, rfl⟩ <;> decide

theorem test_witness_ReadingsAreSet : ({ ready with temp := { ready.temp with converting := true } } : State).temp.converting = true ∧
    (∀ b : Byte, b = 0xD7 ∨ b = 0xD8 ∨ b = 85 ∨ b = 86 →
      takes (ask .temperatureReport [b] hostSource) .temperatureReport (entryOf .temperatureReport [b]) ∧
      takes (ask .temperatureReport [b] ready) .temperatureReport (entryOf .temperatureReport [b])) ∧
    takes (ask .temperatureReport [] ready) .temperatureReport (entryOf .temperatureReport []) ∧
    (0xD7 : Byte).toInt < -40 ∧ -40 ≤ (0xD8 : Byte).toInt ∧ (85 : Byte).toInt ≤ 85 ∧ 85 < (86 : Byte).toInt ∧
    hostSource.params.tempSource = .fromHost ∧ ready.params.tempSource = .fromSensor :=
  ⟨rfl, fun _ _ => ⟨asked _ _ _ rfl rfl rfl, asked _ _ _ rfl rfl rfl⟩, asked _ _ _ rfl rfl rfl, by decide, by decide, by decide,
    by decide, rfl, rfl⟩

theorem test_witness_ConversionsStartAndReadingsAge : ready.params.tempSource = .fromSensor ∧ ready.temp.nextStart ≠ none ∧
    hostSource.params.tempSource = .fromHost ∧ (aged 119).temp.reading = some { value := 21, age := 119 } ∧
    119 ≠ (aged 119).params.staleLimit ∧ (aged 120).temp.reading = some { value := 21, age := 120 } ∧
    120 = (aged 120).params.staleLimit ∧ 120 < 65535 := ⟨rfl, by decide, rfl, rfl, by decide, rfl, rfl, by decide⟩

theorem test_witness_RailsRiseAndFall : (rising .waiting (.running 20)).phase = .running ∧
    (rising .waiting (.running 20)).powerGood = false ∧ (rising .waiting (.running 20)).rails.state = .rising ∧
    (rising .waiting (.running 20)).rails.risePhase = some .waiting ∧ ready.rails.state ≠ .rising ∧
    (rising .settling .expired).rails.risePhase = some .settling ∧ demand (rising .settling .expired) = false ∧
    demand armedInRise = true ∧ (rising .settling .expired).rails.fastFall = false ∧
    0 < (rising .settling .expired).params.holdTime ∧
    ({ Rails.reset with state := .holding, holdTimer := some 1000 } : Rails).state = .holding ∧
    ({ Rails.reset with state := .falling, fallTimer := some 30 } : Rails).state = .falling ∧ 0 < armedInRise.params.settle ∧
    demand { armedInRise with params := { Params.default with settle := 0 }, powerGood := true } = true :=
  ⟨rfl, rfl, rfl, rfl, by decide, rfl, by decide, by decide, rfl, by decide, rfl, rfl, by decide, by decide⟩

theorem test_witness_RailFaultsAbortTheDrive : (rising .settling (.running 20)).rails.riseTimer = .running 20 ∧
    (rising .waiting (.running 20)).rails.riseTimer = .running 20 ∧
    ({ rising .settling .expired with powerGood := true } : State).powerGood = true ∧
    (rising .settling .expired).rails.riseTimer = .expired ∧ busy.rails.state = .on ∧ ready.rails.state = .off ∧
    takes (ask .clearFault [0] ready) .clearFault (entryOf .clearFault [0]) ∧
    takes (ask .clearFault [] ready) .clearFault (entryOf .clearFault []) ∧
    takes (ask .clearFault [] (enterFault .powerLost busy)) .clearFault (entryOf .clearFault []) ∧
    (enterFault .powerLost busy).rails.state = .fault ∧ ({ busy with halt := .halting } : State).halt = .halting ∧
    PlanesLaw busy ∧ SlotsApart busy ∧ BankLaw busy :=
  ⟨rfl, rfl, rfl, rfl, rfl, rfl, asked _ _ _ rfl rfl rfl, asked _ _ _ rfl rfl rfl,
    asked _ _ _ (by decide +kernel) (by decide +kernel) rfl, by decide +kernel, rfl, busy_planes, busy_apart, busy_bank⟩

/-- The part with a session OPEN on a window 5 by 3. -/
def loading (written : Nat) : State :=
  { ready with load := some { window := reg 200 100 5 3, order := 7, written := written, discarded := 0 } }

theorem test_witness_LoadSessionsOpenAndClose :
    takes (ask .loadOpen (rectBytes ⟨799, 599, 1, 1⟩ ++ [byteOf 7]) ready) .loadOpen
      (entryOf .loadOpen (rectBytes ⟨799, 599, 1, 1⟩ ++ [byteOf 7])) ∧
    takes (ask .loadOpen (rectBytes ⟨799, 599, 2, 1⟩ ++ [byteOf 0]) (loading 3)) .loadOpen
      (entryOf .loadOpen (rectBytes ⟨799, 599, 2, 1⟩ ++ [byteOf 0])) ∧
    rectValid ⟨799, 599, 1, 1⟩ = true ∧ rectValid ⟨799, 599, 2, 1⟩ = false ∧ ready.load = none ∧ (loading 3).load ≠ none ∧
    takes (ask .loadOpen [] ready) .loadOpen (entryOf .loadOpen []) ∧
    takes (ask .loadOpen (rectBytes ⟨799, 599, 1, 1⟩ ++ [8]) ready) .loadOpen
      (entryOf .loadOpen (rectBytes ⟨799, 599, 1, 1⟩ ++ [8])) ∧
    takes (ask .loadClose [0] ready) .loadClose (entryOf .loadClose [0]) ∧
    takes (ask .loadClose [] ready) .loadClose (entryOf .loadClose []) ∧
    takes (ask .loadClose [] (loading 15)) .loadClose (entryOf .loadClose []) :=
  ⟨asked _ _ _ rfl rfl rfl, asked _ _ _ rfl rfl rfl, by decide, by decide, rfl, by decide, asked _ _ _ rfl rfl rfl,
    asked _ _ _ rfl rfl rfl, asked _ _ _ rfl rfl rfl, asked _ _ _ rfl rfl rfl, asked _ _ _ rfl rfl rfl⟩

theorem test_witness_LoadDataPlacesPixels :
    PlanesLaw (loading 14) ∧ LoadLaw (loading 14) ∧
    takes (ask .loadData (leBytes 2 3 ++ [0x12, 0x34]) (loading 14)) .loadData (entryOf .loadData (leBytes 2 3 ++ [0x12, 0x34])) ∧
    ([0x12, 0x34] : List Byte).length = (3 + 1) / 2 ∧ (([0x12, 0x34] : List Byte).flatMap unpackByte).take 3 = [1, 2, 3] ∧
    takes (ask .loadData [1] ready) .loadData (entryOf .loadData [1]) ∧
    takes (ask .loadData (leBytes 2 0 ++ []) ready) .loadData (entryOf .loadData (leBytes 2 0 ++ [])) ∧
    takes (ask .loadData (leBytes 2 2033 ++ List.replicate 1017 0) ready) .loadData
      (entryOf .loadData (leBytes 2 2033 ++ List.replicate 1017 0)) ∧ (List.replicate 1017 (0 : Byte)).length = (2033 + 1) / 2 ∧
    takes (ask .loadData (leBytes 2 1 ++ [0]) ready) .loadData (entryOf .loadData (leBytes 2 1 ++ [0])) ∧ ready.load = none := by
  refine ⟨⟨planes_reset.1, planes_reset.2.1, planes_reset.2.2, fun j hj => nomatch (show j ∈ ([] : List Job) from hj)⟩, ?_,
    asked _ _ _ rfl rfl rfl, by decide, by decide, asked _ _ _ rfl rfl rfl, asked _ _ _ rfl rfl rfl, asked _ _ _ rfl rfl rfl,
    List.length_replicate, asked _ _ _ rfl rfl rfl, rfl⟩
  intro l hl
  have h : l = { window := reg 200 100 5 3, order := 7, written := 14, discarded := 0 } := (Option.some.inj hl).symm
  subst h
  decide

theorem test_witness_CursorVisitsEveryPixelOnce : 0 < rectArea (reg 10 20 3 2).val ∧ 5 < rectArea (reg 10 20 3 2).val ∧
    rectContains (reg 10 20 3 2).val 12 21 = true ∧ 2 < (reg 10 20 3 2).val.width ∧ 1 < (reg 10 20 3 2).val.height := by decide

theorem test_witness_ReadPixelsReturnsThePlane : PlanesLaw ready ∧
    takes (ask .readPixels (flagByte true :: rectBytes (reg 0 0 25 40).val) ready) .readPixels
      (entryOf .readPixels (flagByte true :: rectBytes (reg 0 0 25 40).val)) ∧ rectArea (reg 0 0 25 40).val ≤ 1000 ∧
    takes (ask .readPixels (flagByte false :: rectBytes (reg 0 0 77 13).val) ready) .readPixels
      (entryOf .readPixels (flagByte false :: rectBytes (reg 0 0 77 13).val)) ∧ 1000 < rectArea (reg 0 0 77 13).val ∧
    takes (ask .readPixels [] ready) .readPixels (entryOf .readPixels []) ∧
    takes (ask .readPixels (2 :: List.replicate 8 0) ready) .readPixels (entryOf .readPixels (2 :: List.replicate 8 0)) ∧
    takes (ask .readPixels (flagByte false :: rectBytes ⟨0, 0, 0, 1⟩) ready) .readPixels
      (entryOf .readPixels (flagByte false :: rectBytes ⟨0, 0, 0, 1⟩)) ∧ rectValid ⟨0, 0, 0, 1⟩ = false :=
  ⟨⟨planes_reset.1, planes_reset.2.1, planes_reset.2.2, fun j hj => nomatch (show j ∈ ([] : List Job) from hj)⟩,
    asked _ _ _ rfl rfl rfl, by decide, asked _ _ _ rfl rfl rfl, by decide, asked _ _ _ rfl rfl rfl, asked _ _ _ rfl rfl rfl,
    asked _ _ _ rfl rfl rfl, by decide⟩

/-- The part with the job counter given. -/
def counted (c : JobCounter) : State := { ready with raster := { ready.raster with counter := c } }

theorem test_witness_JobsAreAccepted :
    (∀ c, c = .next 4294967295 ∨ c = .next 1 ∨ c = .exhausted →
      takes (ask .fill (rectBytes (reg 0 0 2 1).val ++ [byteOf 15]) (counted c)) .fill
        (entryOf .fill (rectBytes (reg 0 0 2 1).val ++ [byteOf 15])) ∧
      takes (ask .copy (rectBytes (reg 0 0 4 1).val ++ leBytes 2 2 ++ leBytes 2 0) (counted c)) .copy
        (entryOf .copy (rectBytes (reg 0 0 4 1).val ++ leBytes 2 2 ++ leBytes 2 0))) ∧
    (reg 2 0 4 1).val.width = (reg 0 0 4 1).val.width ∧ (reg 2 0 4 1).val.height = (reg 0 0 4 1).val.height ∧
    (loading 3).load ≠ none ∧ ready.load = none ∧ busy.raster.jobs ≠ [] ∧
    takes (ask .fill (rectBytes (reg 0 0 2 1).val ++ [byteOf 15]) busy) .fill
      (entryOf .fill (rectBytes (reg 0 0 2 1).val ++ [byteOf 15])) ∧
    takes (ask .fill (rectBytes ⟨0, 0, 0, 1⟩ ++ [16]) ready) .fill (entryOf .fill (rectBytes ⟨0, 0, 0, 1⟩ ++ [16])) ∧
    takes (ask .copy [] ready) .copy (entryOf .copy []) ∧ rectValid ⟨0, 0, 0, 1⟩ = false := by
  refine ⟨fun c _ => ⟨asked _ _ _ rfl rfl rfl, asked _ _ _ rfl rfl rfl⟩, rfl, rfl, by decide, rfl, by decide,
    asked _ _ _ rfl rfl rfl, asked _ _ _ rfl rfl rfl, asked _ _ _ rfl rfl rfl, by decide⟩

theorem test_witness_JobsWriteInRowMajorOrder : PlanesLaw busy ∧
    busy.raster.jobs = [{ number := 1, kind := .fill (reg 10 0 2 1) 5, progress := .running 1 (planeOf 2 1 5) }] ∧
    1 < rectArea (reg 10 0 2 1).val ∧ planeWf 800 600 State.reset.pendingPlane = true ∧ 3 < (reg 0 0 4 1).val.width :=
  ⟨busy_planes, rfl, by decide, planes_reset.1, by decide⟩

theorem test_witness_JobCompletionIsOneEvent : PlanesLaw busy ∧
    busy.raster.jobs = { number := 1, kind := .fill (reg 10 0 2 1) 5, progress := .running 1 (planeOf 2 1 5) } :: [] :=
  ⟨busy_planes, rfl⟩

/-! ### The laws on the busy part, whose step is a frame boundary -/

theorem busy_steps : ∃ t, step busy = .next t := ⟨_, rfl⟩

theorem test_witness_StepKeepsThePlanes : PlanesLaw busy ∧ ∃ t, step busy = .next t := ⟨busy_planes, busy_steps⟩

theorem test_witness_StepKeepsTheAgreement : PlanesLaw busy ∧ SlotsApart busy ∧ AgreementLaw busy ∧ ∃ t, step busy = .next t :=
  ⟨busy_planes, busy_apart, fun _ _ _ => rfl, busy_steps⟩

theorem test_witness_StepKeepsTheQueueLaw : QueueLaw busy ∧ ∃ t, step busy = .next t := ⟨busy_queue, busy_steps⟩

theorem test_witness_StepKeepsTheBankLaw : BankLaw busy ∧ SlotWaveformLaw busy ∧ ∃ t, step busy = .next t := by
  refine ⟨busy_bank, ?_, busy_steps⟩
  intro u hu
  have hm : ∀ v ∈ activeUpdates busy, v.bank = .a ∧ v.mode = 0 ∧ v.band = 0 ∧ v.frames = 3 := by decide
  obtain ⟨h1, h2, h3, h4⟩ := hm u hu
  refine ⟨soundMode, { frames := 3, table := List.replicate 34 [{ drive := .pos, frames := 3 }] }, ?_, ?_, h4.symm⟩
  · unfold slotMode; rw [h1, h2]; decide +kernel
  · rw [h3]; rfl

/-- The busy part's bank A with a declared size the spec allows. -/
theorem test_witness_StepKeepsTheBankContents : BankContentsLaw busy ∧ ∃ t, step busy = .next t := by
  refine ⟨⟨?_, ⟨rfl, rfl⟩⟩, busy_steps⟩
  exact ⟨{ size := 110, crc := crc32 testImage }, soundImage, rfl, by decide, by decide, rfl, rfl, test_image_walk⟩

theorem test_witness_StepKeepsTheRailsLaw : RailsLaw busy ∧ ∃ t, step busy = .next t := by
  refine ⟨⟨?_, by decide, by decide, by decide, ?_, by decide, by decide⟩, busy_steps⟩
  · unfold railItemsSound; decide
  · have h : ∀ i : Fin 8, (busy.slots[i] = .driving (updateOf 1 3 (reg 0 0 2 2)) ∨
        busy.slots[i] = .armed (updateOf 2 0 (reg 4 4 2 2))) ∨ busy.slots[i] = .free := by decide +kernel
    intro i
    rcases h i with (h | h) | h <;> rw [h]
    · exact ⟨by unfold slotFramesSound; decide, fun _ => rfl⟩
    · exact ⟨by unfold slotFramesSound; decide, fun _ => rfl⟩
    · exact ⟨trivial, fun _ => rfl⟩

theorem test_witness_StepKeepsTheRasterLaw : RasterLaw busy ∧ LoadLaw busy ∧ ∃ t, step busy = .next t := by
  refine ⟨⟨by decide, by decide, by decide, by decide, ?_, ?_, ?_, ?_⟩, (fun l hl => nomatch (show none = some l from hl)), busy_steps⟩
  · intro j hj
    have h : j ∈ [({ number := 1, kind := .fill (reg 10 0 2 1) 5, progress := .running 1 (planeOf 2 1 5) } : Job)] := hj
    rw [List.mem_singleton] at h
    subst h
    exact (by decide : 1 < 2)
  · exact (by decide : 0 < 2)
  · intro n hn
    have h : n = 2 := (JobCounter.next.inj hn).symm
    subst h
    decide
  · exact ⟨rfl, fun q hq => nomatch (show q ∈ ([] : List Job) from hq)⟩

theorem test_witness_StepKeepsParametersAndReset : ParamsLaw busy ∧ ResetLaw busy ∧ TemperatureLaw busy ∧
    ResetLaw State.reset ∧ ∃ t, step busy = .next t := by
  refine ⟨⟨fun q => by cases q <;> decide, by decide, ?_, ?_⟩, ⟨fun h => ?_, fun h => ?_⟩, ⟨?_, fun h => ?_⟩, ⟨fun _ => rfl, fun h => ?_⟩,
    busy_steps⟩
  · intro q hq baud hb
    have h : q ∈ [okReply 7 0x02 .nothing] := hq
    rw [List.mem_singleton] at h
    subst h
    exact nomatch (show ReplyEffect.nothing = .lineRate baud from hb)
  · intro q c h; exact nomatch (show Transmitter.idle = .sendingReply q c from h)
  · exact nomatch (show Phase.running = .resetHeld from h)
  · exact nomatch (show Phase.running = .startUp from h)
  · intro r hr
    have h : r = { value := 21, age := 0 } := (Option.some.inj hr).symm
    subst h
    decide
  · exact nomatch (show TempSource.fromSensor = .fromHost from h)
  · exact nomatch (show Phase.resetHeld = .startUp from h)

theorem test_witness_StepKeepsTheBounds : NoticeLaw busy ∧ CountersLaw busy ∧ receiverSound busy.link.receiver ∧
    ∃ t, step busy = .next t :=
  ⟨⟨by decide, by decide, by decide, by decide⟩, ⟨by decide, by decide, by decide, by decide, by decide⟩, trivial, busy_steps⟩

theorem test_witness_StepKeepsTheLinkLaw : LinkLaw busy ∧ ClosedLaw busy ∧ ∃ t, step busy = .next t := by
  refine ⟨⟨by decide, by decide, by decide, by decide, ?_, by decide⟩, (fun h => nomatch (show true = false from h)), busy_steps⟩
  intro r hr ho
  have h : r ∈ [{ entryOf .getStatus [] with state := .executing }] := hr
  rw [List.mem_singleton] at h
  subst h
  exact nomatch (show false = true from ho)

end Sys2Proof.Tests
end

section
/-! What the Drive Table's operations do to the planes Target and Shown and to the slots, pixel by pixel. -/

namespace Sys2Proof.Machine

/-! ### Slots -/

theorem setSlot_slot_same (i : Fin 8) (x : Slot) (s : State) : (setSlot i x s).slots[i] = x := by
  simp

theorem setSlot_slot_other {i j : Fin 8} (x : Slot) (s : State) (h : j ≠ i) : (setSlot i x s).slots[j] = s.slots[j] := by
  have hij : i.val ≠ j.val := fun e => h (Fin.ext e.symm)
  simp [hij]

/-- R1, R39: whether a slot is active with the pixel in its rectangle. -/
def slotCovers (x : Slot) (a b : Nat) : Bool := (slotUpdate x).any fun u => rectContains u.rect.val a b

@[simp] theorem slotCovers_free (a b : Nat) : slotCovers .free a b = false := rfl
@[simp] theorem slotCovers_armed (u : Update) (a b : Nat) : slotCovers (.armed u) a b = rectContains u.rect.val a b := rfl
@[simp] theorem slotCovers_driving (u : Update) (a b : Nat) : slotCovers (.driving u) a b = rectContains u.rect.val a b := rfl

theorem slotCovers_eq_true_iff (x : Slot) (a b : Nat) :
    slotCovers x a b = true ↔ ∃ u, slotUpdate x = some u ∧ rectContains u.rect.val a b = true := by
  cases x <;> simp [slotUpdate]

theorem inActiveSlot_iff (s : State) (a b : Nat) : inActiveSlot s a b ↔ ∃ i : Fin 8, slotCovers s.slots[i] a b = true := by
  simp only [slotCovers_eq_true_iff]; rfl

/-- R5, R40: the active slots are apart exactly when no pixel is covered by two of them. -/
theorem slotsApart_iff (s : State) : SlotsApart s ↔ ∀ (i j : Fin 8) (a b : Nat), i ≠ j →
    slotCovers s.slots[i] a b = true → slotCovers s.slots[j] a b = false := by
  constructor
  · intro h i j a b hij hi
    obtain ⟨u, hu, hua⟩ := (slotCovers_eq_true_iff _ _ _).mp hi
    rw [← Bool.not_eq_true]
    intro hj
    obtain ⟨v, hv, hva⟩ := (slotCovers_eq_true_iff _ _ _).mp hj
    have ho := (rectsOverlap_iff_shared_pixel u.rect v.rect).mpr ⟨a, b, hua, hva⟩
    rw [h i j u v hij hu hv] at ho
    cases ho
  · intro h i j u v hij hu hv
    rw [← Bool.not_eq_true, rectsOverlap_iff_shared_pixel]
    rintro ⟨a, b, hua, hva⟩
    have hj := h i j a b hij ((slotCovers_eq_true_iff _ _ _).mpr ⟨u, hu, hua⟩)
    rw [(slotCovers_eq_true_iff _ _ _).mpr ⟨v, hv, hva⟩] at hj
    cases hj

/-! ### The pixels of Target and Shown -/

/-- A pixel of Target and of Shown together. -/
def pixelPair (s : State) (a b : Nat) : Option Pixel × Option Pixel := (planeAt s.target a b, planeAt s.shown a b)

@[simp] theorem pixelPair_setSlot (i : Fin 8) (x : Slot) (s : State) (a b : Nat) :
    pixelPair (setSlot i x s) a b = pixelPair s a b := rfl

/-- R52: the pixel under a slot that has been aborted. -/
def clearedPixel (x : Slot) (p : Option Pixel × Option Pixel) : Option Pixel × Option Pixel :=
  match x with
  | .free => p
  | .armed _ => (p.2, p.2)
  | .driving _ => (some .unknown, some .unknown)

/-- The planes Target and Shown in form. -/
structure ImageForm (s : State) : Prop where
  target : planeWf 800 600 s.target = true
  shown : planeWf 800 600 s.shown = true

theorem PlanesLaw.imageForm {s : State} (h : PlanesLaw s) : ImageForm s := ⟨h.2.1, h.2.2.1⟩

/-- A plane over a rectangle takes another plane's pixels there. -/
theorem planeAt_paste_crop {α : Type} [DecidableEq α] (r : Region) (p q : Plane α) (a b : Nat)
    (hp : planeWf 800 600 p = true) (hq : planeWf 800 600 q = true) :
    planeAt (planePaste r.val (planeCrop r.val q) p) a b = if rectContains r.val a b = true then planeAt q a b else planeAt p a b := by
  obtain ⟨-, -, hc, hr⟩ := region_on_panel r
  rw [planeAt_planePaste _ _ _ _ _ _ _ hp (planeWf_planeCrop _ _ _ _ hq hc hr) hc hr, planeAt_planeCrop]
  split
  · rename_i hin
    simp only [rectContains, Bool.and_eq_true, decide_eq_true_eq] at hin
    rw [if_pos (by omega), show r.val.col + (a - r.val.col) = a by omega, show r.val.row + (b - r.val.row) = b by omega]
  · rfl

theorem planeWf_paste_crop {α : Type} [DecidableEq α] (r : Region) (p q : Plane α)
    (hp : planeWf 800 600 p = true) (hq : planeWf 800 600 q = true) :
    planeWf 800 600 (planePaste r.val (planeCrop r.val q) p) = true := by
  obtain ⟨-, -, hc, hr⟩ := region_on_panel r
  exact planeWf_planePaste _ _ _ _ _ hp (planeWf_planeCrop _ _ _ _ hq hc hr) hc hr

/-! ### Aborts -/

/-- R52: an abort leaves its slot FREE. -/
theorem clearSlot_slot_same (i : Fin 8) (s : State) : (clearSlot i s).slots[i] = .free := by
  unfold clearSlot
  split
  · assumption
  · exact setSlot_slot_same _ _ _
  · exact setSlot_slot_same _ _ _

/-- R52: an abort leaves every other slot. -/
theorem clearSlot_slot_other {i j : Fin 8} (s : State) (h : j ≠ i) : (clearSlot i s).slots[j] = s.slots[j] := by
  unfold clearSlot
  split
  · rfl
  · exact setSlot_slot_other _ _ h
  · exact setSlot_slot_other _ _ h

@[simp] theorem clearSlot_pendingPlane (i : Fin 8) (s : State) : (clearSlot i s).pendingPlane = s.pendingPlane := by
  rw [clearSlot_driveFrame i s]

theorem clearSlot_imageForm (i : Fin 8) {s : State} (h : ImageForm s) : ImageForm (clearSlot i s) := by
  unfold clearSlot
  split
  · exact h
  · exact ⟨planeWf_paste_crop _ _ _ h.target h.shown, h.shown⟩
  · rename_i u _
    obtain ⟨-, -, hc, hr⟩ := region_on_panel u.rect
    exact ⟨planeWf_planeFill _ _ _ _ _ h.target hc hr, planeWf_planeFill _ _ _ _ _ h.shown hc hr⟩

/-- R52: an abort changes the pixels its slot covers, and no other. -/
theorem pixelPair_clearSlot (i : Fin 8) {s : State} (h : ImageForm s) (a b : Nat) : pixelPair (clearSlot i s) a b =
    if slotCovers s.slots[i] a b = true then clearedPixel s.slots[i] (pixelPair s a b) else pixelPair s a b := by
  unfold clearSlot
  split
  case h_1 hi => simp [hi]
  case h_2 u hi =>
    simp only [hi, slotCovers_armed, clearedPixel, pixelPair_setSlot]
    simp only [pixelPair, withdrawLatch_target, withdrawLatch_shown, planeAt_paste_crop _ _ _ _ _ h.target h.shown]
    split <;> rfl
  case h_3 u hi =>
    obtain ⟨-, -, hc, hr⟩ := region_on_panel u.rect
    simp only [hi, slotCovers_driving, clearedPixel, pixelPair_setSlot]
    simp only [pixelPair, blurRect_target, blurRect_shown, planeAt_planeFill _ _ _ _ _ _ _ h.target hc hr,
      planeAt_planeFill _ _ _ _ _ _ _ h.shown hc hr]
    split <;> rfl

/-- R52: aborts leave a pixel that none of their slots covers. -/
theorem pixelPair_foldl_clearSlot_uncovered (a b : Nat) (l : List (Fin 8)) {s : State} (h : ImageForm s)
    (hc : ∀ i ∈ l, slotCovers s.slots[i] a b = false) :
    pixelPair (l.foldl (fun t i => clearSlot i t) s) a b = pixelPair s a b := by
  induction l generalizing s with
  | nil => rfl
  | cons j l ih =>
    have hj : slotCovers s.slots[j] a b = false := hc j List.mem_cons_self
    rw [List.foldl_cons, ih (clearSlot_imageForm j h), pixelPair_clearSlot j h, if_neg (Bool.eq_false_iff.mp hj)]
    intro i hi
    by_cases hij : i = j
    · rw [hij, clearSlot_slot_same, slotCovers_free]
    · rw [clearSlot_slot_other s hij]
      exact hc i (List.mem_cons_of_mem _ hi)

/-- R52: aborts of slots that are apart clear each pixel that one of them covers as that slot's abort does. -/
theorem pixelPair_foldl_clearSlot_covered {a b : Nat} {i : Fin 8} {l : List (Fin 8)} (hi : i ∈ l) {s : State}
    (h : ImageForm s) (hc : slotCovers s.slots[i] a b = true)
    (hapart : ∀ j : Fin 8, j ≠ i → slotCovers s.slots[j] a b = false) :
    pixelPair (l.foldl (fun t i => clearSlot i t) s) a b = clearedPixel s.slots[i] (pixelPair s a b) := by
  induction l generalizing s with
  | nil => cases hi
  | cons j l ih =>
    rw [List.foldl_cons]
    by_cases hij : i = j
    · subst hij
      rw [pixelPair_foldl_clearSlot_uncovered a b l (clearSlot_imageForm i h), pixelPair_clearSlot i h, if_pos hc]
      intro k _
      by_cases hk : k = i
      · rw [hk, clearSlot_slot_same, slotCovers_free]
      · rw [clearSlot_slot_other s hk]
        exact hapart k hk
    · have hj : slotCovers s.slots[j] a b = false := hapart j (Ne.symm hij)
      have hslot : (clearSlot j s).slots[i] = s.slots[i] := clearSlot_slot_other s hij
      rw [ih ((List.mem_cons.mp hi).resolve_left hij) (clearSlot_imageForm j h) (by rw [hslot]; exact hc), hslot,
        pixelPair_clearSlot j h, if_neg (Bool.eq_false_iff.mp hj)]
      intro k hk
      by_cases hkj : k = j
      · rw [hkj, clearSlot_slot_same, slotCovers_free]
      · rw [clearSlot_slot_other s hkj]
        exact hapart k hk

/-! ### The part of the state that the drive law speaks of -/

/-- The planes and the slots. -/
structure DriveView where
  pending : Plane Level
  target : Plane Pixel
  shown : Plane Pixel
  slots : Vector Slot 8

/-- The planes and the slots of a state. -/
def driveView (s : State) : DriveView := ⟨s.pendingPlane, s.target, s.shown, s.slots⟩

theorem pixelPair_congr {s t : State} (h : driveView t = driveView s) (a b : Nat) : pixelPair t a b = pixelPair s a b := by
  simp only [driveView, DriveView.mk.injEq] at h
  simp [pixelPair, h]

@[simp] theorem driveView_setBank (bank : BankId) (v : Bank) (s : State) : driveView (setBank bank v s) = driveView s := by
  cases bank <;> rfl

@[simp] theorem driveView_offerNotice (n : Notice) (s : State) : driveView (offerNotice n s) = driveView s := rfl

@[simp] theorem driveView_releaseBank (bank : BankId) (s : State) : driveView (releaseBank bank s) = driveView s := by
  unfold releaseBank
  dsimp only
  split <;> simp

theorem clearSlot_congr {s t : State} (i : Fin 8) (h : driveView t = driveView s) :
    driveView (clearSlot i t) = driveView (clearSlot i s) := by
  simp only [driveView, DriveView.mk.injEq] at h
  obtain ⟨hp, ht, hs, hsl⟩ := h
  unfold clearSlot
  rw [hsl]
  split <;> simp [driveView, hp, ht, hs, hsl]

/-- R52: a slot's abort clears the slot and touches nothing else of the view. -/
theorem driveView_abortSlot (result : EndResult) (s : State) (i : Fin 8) :
    driveView (abortSlot result s i) = driveView (clearSlot i s) := by
  unfold abortSlot clearSlot
  cases s.slots[i] <;> simp [slotUpdate]

/-- R61: so does its abort by a Restart. -/
theorem driveView_abandonSlot (s : State) (i : Fin 8) : driveView (abandonSlot s i) = driveView (clearSlot i s) := by
  unfold abandonSlot clearSlot
  cases s.slots[i] <;> simp [slotUpdate, releaseBankSilently]

/-- Aborts one after another clear the slots one after another. -/
theorem driveView_foldl_clearSlot {f : State → Fin 8 → State} (hf : ∀ s i, driveView (f s i) = driveView (clearSlot i s))
    (l : List (Fin 8)) {s t : State} (h : driveView t = driveView s) :
    driveView (l.foldl f t) = driveView (l.foldl (fun u i => clearSlot i u) s) := by
  induction l generalizing s t with
  | nil => exact h
  | cons i l ih => exact ih ((hf t i).trans (clearSlot_congr i h))

/-- Every slot number is in the list. -/
theorem mem_slotNumbers (i : Fin 8) : i ∈ slotNumbers := by revert i; decide

/-- R61: the planes and slots after a Restart's aborts. -/
theorem driveView_abandonAll (s : State) :
    driveView (abandonAll s) = driveView (slotNumbers.foldl (fun t i => clearSlot i t) s) :=
  driveView_foldl_clearSlot driveView_abandonSlot slotNumbers rfl

/-- R13, R61: a pixel that an active slot covers, after a Restart's aborts. -/
theorem pixelPair_abandonAll_covered {s : State} (hform : ImageForm s) (hapart : SlotsApart s) {i : Fin 8} {a b : Nat}
    (hc : slotCovers s.slots[i] a b = true) :
    pixelPair (abandonAll s) a b = clearedPixel s.slots[i] (pixelPair s a b) := by
  rw [pixelPair_congr (driveView_abandonAll s)]
  exact pixelPair_foldl_clearSlot_covered (mem_slotNumbers i) hform hc
    fun j hj => (slotsApart_iff s).mp hapart i j a b (Ne.symm hj) hc

/-- R13, R61: a pixel that no active slot covers, after a Restart's aborts. -/
theorem pixelPair_abandonAll_uncovered {s : State} (hform : ImageForm s) {a b : Nat} (hc : ¬ inActiveSlot s a b) :
    pixelPair (abandonAll s) a b = pixelPair s a b := by
  rw [pixelPair_congr (driveView_abandonAll s)]
  refine pixelPair_foldl_clearSlot_uncovered a b _ hform fun i _ => ?_
  rw [← Bool.not_eq_true]
  exact fun hi => hc ((inActiveSlot_iff s a b).mpr ⟨i, hi⟩)

end Sys2Proof.Machine
end

section
/-! The planes after a Restart and after a pin reset (R12, R13), and every law at reset. -/

namespace Sys2Proof.Machine

/-! ### The Restart and the pin reset (R12, R13) -/

/-- R162: the settling of a reply at the Request Table and the Reply Cache leaves the planes and slots. -/
@[simp] theorem driveView_settleReply (q : QueuedReply) (cacheable : Bool) (s : State) :
    driveView (settleReply q cacheable s) = driveView s := by
  unfold settleReply
  split
  · rfl
  · split <;> rfl
  · rfl

@[simp] theorem driveView_setTransmitter (tx : Transmitter) (s : State) : driveView (setTransmitter tx s) = driveView s := rfl

/-- R183: of the planes and slots a Restart changes what its aborts change. -/
theorem driveView_restartTakesEffect (s : State) : driveView (restartTakesEffect s) = driveView (abandonAll s) := by
  simp only [driveView, restartTakesEffect]

@[simp] theorem abandonAll_pendingPlane (s : State) : (abandonAll s).pendingPlane = s.pendingPlane := by
  rw [abandonAll_driveFrame s]

/-- R183: the Restart follows the last byte of its reply. -/
theorem execReplySent_of_restart {s : State} {q : QueuedReply} {cacheable : Bool}
    (htx : s.link.transmitter = .sendingReply q cacheable) (he : q.effect = .restart) :
    execReplySent s = .next (restartTakesEffect (setTransmitter .idle (settleReply q cacheable s))) := by
  unfold execReplySent
  rw [htx]
  simp [he, replyEffect]

/-- R13: the pixels after a Restart that follows a state with the same planes and slots. -/
theorem pixelPair_restart {s r : State} (h : driveView r = driveView s) (a b : Nat) :
    pixelPair (restartTakesEffect r) a b = pixelPair (abandonAll s) a b := by
  refine pixelPair_congr ?_ a b
  rw [driveView_restartTakesEffect, driveView_abandonAll, driveView_abandonAll]
  exact driveView_foldl_clearSlot (fun _ _ => rfl) _ h

theorem pendingPlane_restart {s r : State} (h : driveView r = driveView s) :
    (restartTakesEffect r).pendingPlane = s.pendingPlane := by
  have hr : r.pendingPlane = s.pendingPlane := congrArg DriveView.pending h
  simpa only [driveView, abandonAll_pendingPlane, hr] using congrArg DriveView.pending (driveView_restartTakesEffect r)

/-- Settles O6: R13, by what the aborts of a Restart do to a covered and to an uncovered pixel. -/
theorem restartWritesThePlanes : Obligations.RestartWritesThePlanes := by
  intro s q cacheable hplanes hapart htx heffect
  have hview : driveView (setTransmitter .idle (settleReply q cacheable s)) = driveView s := by simp
  refine ⟨_, execReplySent_of_restart htx heffect, pendingPlane_restart hview, fun x y _ _ => ?_⟩
  have hcovered : ∀ i : Fin 8, slotCovers s.slots[i] x y = true → pixelPair (restartTakesEffect
      (setTransmitter .idle (settleReply q cacheable s))) x y = clearedPixel s.slots[i] (pixelPair s x y) := fun i hi =>
    (pixelPair_restart hview x y).trans (pixelPair_abandonAll_covered hplanes.imageForm hapart hi)
  refine ⟨fun i u hu hin => ?_, fun i u hu hin => ?_, fun hout => ?_⟩
  · have h := hcovered i (by rw [hu]; exact hin)
    rw [hu] at h
    exact Prod.mk.inj h
  · have h := hcovered i (by rw [hu]; exact hin)
    rw [hu] at h
    exact Prod.mk.inj h
  · exact Prod.mk.inj ((pixelPair_restart hview x y).trans (pixelPair_abandonAll_uncovered hplanes.imageForm hout))

/-- Settles O3: R12, each plane being one value throughout. -/
theorem pinResetSetsThePlanes : Obligations.PinResetSetsThePlanes := by
  intro s
  refine ⟨_, rfl, fun x y hx hy => ?_⟩
  have hxy : x < 800 ∧ y < 600 := ⟨hx, hy⟩
  simp [State.reset, planeAt_planeOf, hxy]

/-! ### The laws at reset -/

theorem reset_slot (i : Fin 8) : State.reset.slots[i] = .free := by
  revert i; decide

theorem activeUpdates_reset : activeUpdates State.reset = [] := by decide

theorem bankAt_reset (bank : BankId) : bankAt State.reset bank = Bank.none := by cases bank <;> rfl

theorem planesLaw_reset : PlanesLaw State.reset := by
  obtain ⟨hp, ht, hs⟩ := planes_reset
  exact ⟨hp, ht, hs, fun _ hj => (nomatch hj)⟩

theorem slotsApart_reset : SlotsApart State.reset := by
  intro i j u v _ hi
  rw [reset_slot] at hi
  cases hi

theorem agreementLaw_reset : AgreementLaw State.reset := fun _ _ _ => rfl

theorem queueLaw_reset : QueueLaw State.reset := by
  have hids : idsInUse State.reset = [] := by decide
  refine ⟨by decide, by simp [hids], by simp [hids], ⟨by decide, by decide⟩, fun _ hx => (nomatch hx)⟩

theorem bankLaw_reset : BankLaw State.reset := by
  refine ⟨by decide, fun bank => ?_, by simp [activeUpdates_reset], fun bank hb => ?_⟩
  · rw [bankAt_reset, slotsUsing, activeUpdates_reset]; rfl
  · rw [bankAt_reset] at hb; cases hb

theorem slotWaveformLaw_reset : SlotWaveformLaw State.reset := by
  intro u hu
  rw [activeUpdates_reset] at hu
  cases hu

theorem railsLaw_reset : RailsLaw State.reset := by
  have hdemand : demand State.reset = false := by decide
  refine ⟨by simp [railItemsSound, State.reset, Rails.reset], by simp [hdemand], fun h => (nomatch h), ?_, fun i => ?_,
    fun h => (nomatch h), fun h => (nomatch h)⟩
  · simp [State.reset, Rails.reset]
  · rw [reset_slot]
    exact ⟨trivial, fun h => (nomatch h)⟩

theorem rasterLaw_reset : RasterLaw State.reset := by
  refine ⟨fun _ => rfl, by decide, .nil, fun _ hj => (nomatch hj), fun _ hj => (nomatch hj),
    Nat.zero_lt_one, fun n hn => ?_, trivial⟩
  cases hn
  decide

theorem temperatureLaw_reset : TemperatureLaw State.reset := ⟨fun _ hr => (nomatch hr), fun h => (nomatch h)⟩

theorem paramsLaw_reset : ParamsLaw State.reset := by
  refine ⟨fun q => ?_, by decide, fun _ hq => (nomatch hq), fun _ _ h => (nomatch h)⟩
  cases q <;> decide

theorem linkLaw_reset : LinkLaw State.reset := by
  refine ⟨by decide, by decide, by decide, .nil, fun _ hr => (nomatch hr), .nil⟩

theorem closedLaw_reset : ClosedLaw State.reset := fun _ =>
  ⟨rfl, rfl, fun _ hq => (nomatch hq), fun _ _ h => (nomatch h)⟩

theorem resetLaw_reset : ResetLaw State.reset := ⟨fun _ => rfl, fun h => (nomatch h)⟩

/-- Settles O50, law by law. -/
theorem lawsHoldAtReset : Obligations.LawsHoldAtReset :=
  ⟨planesLaw_reset, slotsApart_reset, agreementLaw_reset, queueLaw_reset, bankLaw_reset, ⟨⟨rfl, rfl⟩, rfl, rfl⟩,
    slotWaveformLaw_reset, railsLaw_reset, rasterLaw_reset, fun _ h => (nomatch h), temperatureLaw_reset, paramsLaw_reset,
    ⟨by decide, by decide, by decide, by decide⟩, linkLaw_reset, closedLaw_reset,
    ⟨by decide, by decide, by decide, by decide, by decide⟩, trivial, resetLaw_reset⟩

end Sys2Proof.Machine
end

section
/-! Arming (R43 to R46): the latch pixel by pixel, the changed pixels counted one by one, and the frame. -/

namespace Sys2Proof.Machine

/-! ### Counting over run lists and planes -/

section
variable {α : Type}

/-- The positions of a run list that pass a test, counted one by one. -/
theorem runCount_eq_countP (p : α → Bool) (rs : Runs α) :
    runCount p rs = (List.range (runsLength rs)).countP fun i => (runAt rs i).any p := by
  induction rs with
  | nil => rfl
  | cons a t ih =>
    obtain ⟨n, v⟩ := a
    have hfirst : (List.range n).countP (fun i => (runAt ((n, v) :: t) i).any p) = if p v then n else 0 := by
      rw [List.countP_congr (q := fun _ => p v)
        fun i hi => by rw [runAt_cons_of_lt _ _ _ _ (List.mem_range.mp hi), Option.any_some]]
      cases p v <;> simp
    have hrest : ((List.range (runsLength t)).map (n + ·)).countP (fun i => (runAt ((n, v) :: t) i).any p) =
        runCount p t := by
      rw [List.countP_map, ih]
      refine List.countP_congr fun i _ => ?_
      rw [Function.comp_apply, runAt_cons_of_le _ _ _ _ (Nat.le_add_right n i), Nat.add_sub_cancel_left]
    rw [runCount, runsLength, List.range_add, List.countP_append, hfirst, hrest]

/-- The total of a run list of numbers, position by position. -/
theorem runTotal_eq_sum (rs : Runs Nat) :
    planeDiffCount.runTotal rs = ((List.range (runsLength rs)).map fun i => (runAt rs i).getD 0).sum := by
  induction rs with
  | nil => rfl
  | cons a t ih =>
    obtain ⟨n, v⟩ := a
    have hfirst : (List.range n).map (fun i => (runAt ((n, v) :: t) i).getD 0) = List.replicate n v := by
      rw [List.map_congr_left (g := fun _ => v)
        fun i hi => by rw [runAt_cons_of_lt _ _ _ _ (List.mem_range.mp hi), Option.getD_some]]
      simp
    have hrest : ((List.range (runsLength t)).map (n + ·)).map (fun i => (runAt ((n, v) :: t) i).getD 0) =
        (List.range (runsLength t)).map fun i => (runAt t i).getD 0 := by
      rw [List.map_map]
      refine List.map_congr_left fun i _ => ?_
      rw [Function.comp_apply, runAt_cons_of_le _ _ _ _ (Nat.le_add_right n i), Nat.add_sub_cancel_left]
    rw [planeDiffCount.runTotal, runsLength, List.range_add, List.map_append, List.sum_append, hfirst, hrest, ih,
      List.sum_replicate, smul_eq_mul]

/-- Numbers counted row by row. -/
theorem countP_range_mul (w h : Nat) (P : Nat → Nat → Bool) :
    (List.range (w * h)).countP (fun k => P (k % w) (k / w)) =
      ((List.range h).map fun y => (List.range w).countP fun x => P x y).sum := by
  induction h with
  | zero => rfl
  | succ h ih =>
    have hrow : ((List.range w).map (w * h + ·)).countP (fun k => P (k % w) (k / w)) =
        (List.range w).countP fun x => P x h := by
      rw [List.countP_map]
      refine List.countP_congr fun x hx => ?_
      have hxw := List.mem_range.mp hx
      rw [Function.comp_apply, Nat.mul_add_mod, Nat.mod_eq_of_lt hxw, Nat.mul_add_div (by omega), Nat.div_eq_of_lt hxw,
        Nat.add_zero]
    rw [Nat.mul_succ, List.range_add, List.countP_append, ih, hrow, List.range_succ, List.map_append, List.sum_append]
    simp

/-- The positions at which two rows of one length differ. -/
theorem runCount_runZip_ne [DecidableEq α] (w : Nat) (a b : Runs α) (ha : runsLength a = w) (hb : runsLength b = w) :
    runCount id (runZip (fun u v => decide (u ≠ v)) a b) =
      (List.range w).countP fun x => decide (runAt a x ≠ runAt b x) := by
  rw [runCount_eq_countP, runsLength_runZip, ha, hb, Nat.min_self]
  refine List.countP_congr fun x hx => ?_
  have hxw := List.mem_range.mp hx
  obtain ⟨u, hu⟩ := Option.isSome_iff_exists.mp ((runAt_isSome_iff a x).mpr (by omega))
  obtain ⟨v, hv⟩ := Option.isSome_iff_exists.mp ((runAt_isSome_iff b x).mpr (by omega))
  simp [hu, hv]

/-- The pixels at which two planes of one size differ, counted row by row from the top left. -/
theorem planeDiffCount_eq_countP [DecidableEq α] (w h : Nat) (p q : Plane α) (hp : planeWf w h p = true)
    (hq : planeWf w h q = true) : planeDiffCount p q = (List.range (w * h)).countP fun k =>
      decide (planeAt p (k % w) (k / w) ≠ planeAt q (k % w) (k / w)) := by
  rw [countP_range_mul w h fun x y => decide (planeAt p x y ≠ planeAt q x y), planeDiffCount, runTotal_eq_sum,
    runsLength_runZip, ((planeWf_iff _ _ _).mp hp).2.1, ((planeWf_iff _ _ _).mp hq).2.1, Nat.min_self]
  congr 1
  refine List.map_congr_left fun y hy => ?_
  obtain ⟨a, hpa, -, ha⟩ := planeWf_has_row _ _ y _ hp (List.mem_range.mp hy)
  obtain ⟨b, hqb, -, hb⟩ := planeWf_has_row _ _ y _ hq (List.mem_range.mp hy)
  rw [runAt_runZip, hpa, hqb, Option.bind_some, Option.map_some, Option.getD_some, runCount_runZip_ne w a b ha hb]
  simp only [planeAt, hpa, hqb, Option.bind_some]

end

/-! ### Arming (R43 to R46) -/

/-- R45: the changed pixels of a region, counted pixel by pixel. -/
theorem changedPixels_eq_length (s : State) (r : Region) (h : ImageForm s) : changedPixels s r.val =
    ((rectPixels r.val).filter fun p => decide (planeAt s.target p.1 p.2 ≠ planeAt s.shown p.1 p.2)).length := by
  obtain ⟨hw, hh, hc, hr⟩ := region_on_panel r
  rw [changedPixels, planeDiffCount_eq_countP _ _ _ _ (planeWf_planeCrop _ _ _ _ h.target hc hr)
    (planeWf_planeCrop _ _ _ _ h.shown hc hr), ← List.countP_eq_length_filter, rectPixels, List.countP_map, rectArea]
  refine List.countP_congr fun k hk => ?_
  have hin : k % r.val.width < r.val.width ∧ k / r.val.width < r.val.height :=
    ⟨Nat.mod_lt _ (by omega), Nat.div_lt_of_lt_mul (List.mem_range.mp hk)⟩
  simp only [planeAt_planeCrop, if_pos hin, Function.comp_apply, rowMajorPixel]
  exact Iff.rfl

theorem planeWf_latchImage (s : State) (r : Region) (twoLevel : Bool) (h : planeWf 800 600 s.pendingPlane = true) :
    planeWf r.val.width r.val.height (latchImage s r.val twoLevel) = true := by
  obtain ⟨-, -, hc, hr⟩ := region_on_panel r
  exact planeWf_planeMap _ _ _ _ (planeWf_planeCrop _ _ _ _ h hc hr)

/-- R44: the latch over its rectangle and elsewhere. -/
theorem planeAt_latchTarget (s : State) (r : Region) (twoLevel : Bool) (a b : Nat)
    (hp : planeWf 800 600 s.pendingPlane = true) (ht : planeWf 800 600 s.target = true) :
    planeAt (latchTarget r.val twoLevel s).target a b =
      if rectContains r.val a b = true then
        (planeAt s.pendingPlane a b).map fun l => Pixel.level (if twoLevel then roundLevel l else l)
      else planeAt s.target a b := by
  obtain ⟨-, -, hc, hr⟩ := region_on_panel r
  rw [latchTarget_target, planeAt_planePaste _ _ _ _ _ _ _ ht (planeWf_latchImage s r twoLevel hp) hc hr, latchImage,
    planeAt_planeMap, planeAt_planeCrop]
  split
  · rename_i hin
    simp only [rectContains, Bool.and_eq_true, decide_eq_true_eq] at hin
    rw [if_pos (by omega), show r.val.col + (a - r.val.col) = a by omega, show r.val.row + (b - r.val.row) = b by omega]
  · rfl

theorem latchTarget_imageForm {s : State} (r : Region) (twoLevel : Bool) (hp : planeWf 800 600 s.pendingPlane = true)
    (h : ImageForm s) : ImageForm (latchTarget r.val twoLevel s) := by
  obtain ⟨-, -, hc, hr⟩ := region_on_panel r
  exact ⟨planeWf_planePaste _ _ _ _ _ h.target (planeWf_latchImage s r twoLevel hp) hc hr, h.shown⟩

/-- R43 to R46: of the planes and slots, arming changes Target by the latch and its own slot. -/
theorem driveView_arm (i : Fin 8) (e : Entry) (d : StartData) (s : State) : driveView (arm i e d s) =
    driveView (setSlot i (.armed (armedUpdate e d (changedPixels (latchTarget e.rect.val d.record.twoLevel s) e.rect.val)))
      (latchTarget e.rect.val d.record.twoLevel s)) := by
  unfold arm retainBank
  dsimp only
  cases d.bank <;> split <;> rfl

theorem arm_target (i : Fin 8) (e : Entry) (d : StartData) (s : State) :
    (arm i e d s).target = (latchTarget e.rect.val d.record.twoLevel s).target :=
  congrArg DriveView.target (driveView_arm i e d s)

theorem arm_shown (i : Fin 8) (e : Entry) (d : StartData) (s : State) : (arm i e d s).shown = s.shown :=
  congrArg DriveView.shown (driveView_arm i e d s)

theorem arm_slots (i : Fin 8) (e : Entry) (d : StartData) (s : State) : (arm i e d s).slots = (setSlot i (.armed
    (armedUpdate e d (changedPixels (latchTarget e.rect.val d.record.twoLevel s) e.rect.val))) s).slots :=
  congrArg DriveView.slots (driveView_arm i e d s)

theorem arm_notices (i : Fin 8) (e : Entry) (d : StartData) (s : State) : (arm i e d s).notices =
    if e.notifyStart = true then offerTo s.notices (.updateStarted e.id i.val d.band d.frames) else s.notices := by
  unfold arm retainBank
  dsimp only
  cases d.bank <;> split <;> rfl

/-- R63: arming raises its bank's count and touches nothing else of the bank. -/
theorem arm_bank (i : Fin 8) (e : Entry) (d : StartData) (s : State) :
    bankAt (arm i e d s) d.bank = { bankAt s d.bank with refCount := (bankAt s d.bank).refCount + 1 } := by
  unfold arm retainBank
  dsimp only
  cases d.bank <;> split <;> rfl

/-- R43 to R46: arming touches Target, the slots, the notices and the counts of the banks. -/
theorem arm_frame (i : Fin 8) (e : Entry) (d : StartData) (s : State) : arm i e d s = { s with
    target := (arm i e d s).target, slots := (arm i e d s).slots, notices := (arm i e d s).notices,
    bankA := { s.bankA with refCount := (arm i e d s).bankA.refCount },
    bankB := { s.bankB with refCount := (arm i e d s).bankB.refCount } } := by
  unfold arm retainBank
  dsimp only
  cases d.bank <;> split <;> rfl

/-- Settles O29: R44 by the latch pixel by pixel, R45 by the count of a region's pixels, the rest by the frame. -/
theorem armingLatchesAndCounts : Obligations.ArmingLatchesAndCounts := by
  intro i e d s hplanes
  have hpending : planeWf 800 600 s.pendingPlane = true := hplanes.1
  have hform := hplanes.imageForm
  refine ⟨fun x y hin l hl => ?_, fun x y hout => ?_,
    ⟨changedPixels (latchTarget e.rect.val d.record.twoLevel s) e.rect.val, ?_, ?_⟩, fun j hj => ?_, ?_,
    arm_other_bank i e d s, arm_notices i e d s, arm_frame i e d s⟩
  · rw [arm_target, planeAt_latchTarget s e.rect _ x y hpending hform.target, if_pos hin, hl]
    rfl
  · rw [arm_target, planeAt_latchTarget s e.rect _ x y hpending hform.target, if_neg (Bool.eq_false_iff.mp hout)]
  · rw [arm_slots, setSlot_slot_same]
    rfl
  · rw [changedPixels_eq_length _ _ (latchTarget_imageForm e.rect _ hpending hform), arm_target]
    rfl
  · rw [arm_slots, setSlot_slot_other _ _ hj]
  · rw [arm_bank]

end Sys2Proof.Machine
end

section
/-! The slots apart and Target equal to Shown outside them (R9, R40): kept by every operation on the slots, and so by every
command. -/

namespace Sys2Proof.Machine

/-! ### The law and the operations that do not touch it -/

/-- R9, R40 with the form of the planes: what an operation of the Drive Table needs and keeps. -/
structure DriveLaw (s : State) : Prop where
  pendingForm : planeWf 800 600 s.pendingPlane = true
  form : ImageForm s
  apart : SlotsApart s
  agree : AgreementLaw s

/-- The law after, if it held before. -/
def KeepsDrive (s t : State) : Prop := DriveLaw s → DriveLaw t

theorem KeepsDrive.refl (s : State) : KeepsDrive s s := id

theorem KeepsDrive.trans {s t u : State} (h : KeepsDrive s t) (k : KeepsDrive t u) : KeepsDrive s u := k ∘ h

theorem KeepsDrive.foldl {ι : Type} {f : State → ι → State} (h : ∀ s i, KeepsDrive s (f s i)) (l : List ι) (s : State) :
    KeepsDrive s (l.foldl f s) := by
  induction l generalizing s with
  | nil => exact .refl s
  | cons i l ih => exact (h s i).trans (ih (f s i))

/-- R9, R40: agreement and apartness speak of Target, Shown and the slots alone. -/
theorem agreement_congr {s t : State} (ht : t.target = s.target) (hs : t.shown = s.shown) (hsl : t.slots = s.slots)
    (h : SlotsApart s ∧ AgreementLaw s) : SlotsApart t ∧ AgreementLaw t := by
  unfold SlotsApart AgreementLaw inActiveSlot at *
  rwa [ht, hs, hsl]

/-- The law speaks of the planes and the slots alone. -/
theorem KeepsDrive.of_view {s t : State} (h : driveView t = driveView s) : KeepsDrive s t := by
  intro k
  simp only [driveView, DriveView.mk.injEq] at h
  obtain ⟨hp, ht, hs, hsl⟩ := h
  obtain ⟨hapart, hagree⟩ := agreement_congr ht hs hsl ⟨k.apart, k.agree⟩
  exact ⟨hp ▸ k.pendingForm, ⟨ht ▸ k.form.target, hs ▸ k.form.shown⟩, hapart, hagree⟩

/-- The law kept from a state with the same planes and slots. -/
theorem KeepsDrive.after_view {s t u : State} (k : KeepsDrive t u) (h : driveView t = driveView s) : KeepsDrive s u :=
  (KeepsDrive.of_view h).trans k

/-! ### A change of one slot -/

theorem DriveLaw.uncovered {s : State} (h : DriveLaw s) {i j : Fin 8} {a b : Nat} (hji : j ≠ i)
    (hi : slotCovers s.slots[i] a b = true) : slotCovers s.slots[j] a b = false :=
  (slotsApart_iff s).mp h.apart i j a b (Ne.symm hji) hi

/-- One slot changes: what it covers after was covered by no other, and each pixel it covers no more is agreed on or was
not its own and is as it was. -/
theorem DriveLaw.of_slot_change {s t : State} (i : Fin 8) (h : DriveLaw s)
    (hpending : planeWf 800 600 t.pendingPlane = true) (hform : ImageForm t)
    (hother : ∀ j, j ≠ i → t.slots[j] = s.slots[j])
    (hnew : ∀ a b, slotCovers t.slots[i] a b = true → ∀ j, j ≠ i → slotCovers s.slots[j] a b = false)
    (hpixel : ∀ a b, slotCovers t.slots[i] a b = false → (pixelPair t a b).1 = (pixelPair t a b).2 ∨
      (slotCovers s.slots[i] a b = false ∧ pixelPair t a b = pixelPair s a b)) : DriveLaw t := by
  refine ⟨hpending, hform, (slotsApart_iff t).mpr fun j k a b hjk hj => ?_, fun a b hout => ?_⟩
  · by_cases hji : j = i
    · subst hji
      rw [hother k (Ne.symm hjk)]
      exact hnew a b hj k (Ne.symm hjk)
    · rw [hother j hji] at hj
      by_cases hki : k = i
      · subst hki
        rw [← Bool.not_eq_true]
        intro hk
        rw [hnew a b hk j hji] at hj
        cases hj
      · rw [hother k hki]
        exact h.uncovered (Ne.symm hjk) hj
  · have hcov : ∀ j : Fin 8, slotCovers t.slots[j] a b = false := fun j =>
      Bool.eq_false_iff.mpr fun hj => hout ((inActiveSlot_iff t a b).mpr ⟨j, hj⟩)
    obtain hag | ⟨hi, hsame⟩ := hpixel a b (hcov i)
    · exact hag
    · have hbefore : ¬ inActiveSlot s a b := by
        rw [inActiveSlot_iff]
        rintro ⟨j, hj⟩
        by_cases hji : j = i
        · rw [hji, hi] at hj; cases hj
        · rw [← hother j hji, hcov j] at hj; cases hj
      obtain ⟨htarget, hshown⟩ := Prod.mk.inj hsame
      rw [htarget, hshown]
      exact h.agree a b hbefore

/-- R52: an abort keeps the law. -/
theorem clearSlot_keepsDrive (i : Fin 8) (s : State) : KeepsDrive s (clearSlot i s) := by
  intro h
  refine .of_slot_change i h (by rw [clearSlot_pendingPlane]; exact h.pendingForm) (clearSlot_imageForm i h.form)
    (fun j hj => clearSlot_slot_other s hj) (fun a b hc => ?_) (fun a b _ => ?_)
  · rw [clearSlot_slot_same] at hc
    cases hc
  · rw [pixelPair_clearSlot i h.form]
    cases hc : slotCovers s.slots[i] a b with
    | false => exact .inr ⟨rfl, rfl⟩
    | true =>
      left
      rw [if_pos rfl]
      cases hi : s.slots[i] with
      | free => rw [hi] at hc; cases hc
      | armed u => rfl
      | driving u => rfl

/-- R47: a slot that stays active with its rectangle keeps the law. -/
theorem setSlot_keepsDrive {i : Fin 8} {s : State} {x : Slot}
    (hx : ∀ a b, slotCovers x a b = slotCovers s.slots[i] a b) : KeepsDrive s (setSlot i x s) := by
  intro h
  refine .of_slot_change i h h.pendingForm ⟨h.form.target, h.form.shown⟩ (fun j hj => setSlot_slot_other x s hj)
    (fun a b hc j hj => ?_) (fun a b hc => .inr ⟨?_, rfl⟩)
  · rw [setSlot_slot_same, hx] at hc
    exact h.uncovered hj hc
  · rwa [setSlot_slot_same, hx] at hc

/-- R51: a completion keeps the law: Shown takes Target where the slot was. -/
theorem completeSlot_keepsDrive {i : Fin 8} {s : State} {u : Update} (hi : s.slots[i] = .driving u) :
    KeepsDrive s (completeSlot i u s) := by
  have hview : driveView (completeSlot i u s) = driveView (setSlot i .free (showTarget u.rect.val s)) := by
    simp [completeSlot]
  refine .trans (fun h => ?_) (.of_view hview)
  refine .of_slot_change i h h.pendingForm ⟨h.form.target, planeWf_paste_crop _ _ _ h.form.shown h.form.target⟩
    (fun j hj => setSlot_slot_other _ _ hj) (fun a b hc => ?_) (fun a b _ => ?_)
  · rw [setSlot_slot_same] at hc
    cases hc
  · simp only [pixelPair_setSlot, hi, slotCovers_driving]
    simp only [pixelPair, showTarget_target, showTarget_shown,
      planeAt_paste_crop _ _ _ _ _ h.form.shown h.form.target]
    cases rectContains u.rect.val a b <;> simp

/-- R43, R44: arming a FREE slot over a rectangle apart from the active ones keeps the law. -/
theorem arm_keepsDrive {i : Fin 8} {s : State} (e : Entry) (d : StartData) (hfree : s.slots[i] = .free)
    (hapart : ∀ (j : Fin 8) (a b : Nat), rectContains e.rect.val a b = true → slotCovers s.slots[j] a b = false) :
    KeepsDrive s (arm i e d s) := by
  intro h
  have hpending : (arm i e d s).pendingPlane = s.pendingPlane := congrArg DriveView.pending (driveView_arm i e d s)
  have hlatch := latchTarget_imageForm e.rect d.record.twoLevel h.pendingForm h.form
  have hcovers : ∀ a b, slotCovers (arm i e d s).slots[i] a b = rectContains e.rect.val a b := by
    intro a b
    rw [arm_slots, setSlot_slot_same]
    rfl
  refine .of_slot_change i h (by rw [hpending]; exact h.pendingForm)
    ⟨by rw [arm_target]; exact hlatch.target, by rw [arm_shown]; exact h.form.shown⟩
    (fun j hj => by rw [arm_slots, setSlot_slot_other _ _ hj]) (fun a b hc j _ => ?_) (fun a b hc => .inr ⟨?_, ?_⟩)
  · rw [hcovers] at hc
    exact hapart j a b hc
  · rw [hfree, slotCovers_free]
  · rw [hcovers] at hc
    rw [pixelPair, arm_target, arm_shown, planeAt_latchTarget s e.rect _ a b h.pendingForm h.form.target,
      if_neg (Bool.eq_false_iff.mp hc)]
    rfl

/-! ### Starts -/

theorem lowestFree_slot {s : State} {i : Fin 8} (h : lowestFree s = some i) : s.slots[i] = .free := by
  have hi : slotIsFree s.slots[i] = true := List.find?_some (p := fun i : Fin 8 => slotIsFree s.slots[i]) h
  cases hs : s.slots[i] with
  | free => rfl
  | armed u => rw [hs] at hi; cases hi
  | driving u => rw [hs] at hi; cases hi

/-- R25 (f): no rectangle of an active slot shares a pixel with a rectangle that overlaps none of them. -/
theorem slotCovers_of_overlapsSlot {s : State} {r : Region} (h : overlapsSlot s r.val = false) (j : Fin 8) (a b : Nat)
    (hin : rectContains r.val a b = true) : slotCovers s.slots[j] a b = false := by
  rw [← Bool.not_eq_true, slotCovers_eq_true_iff]
  rintro ⟨u, hu, hua⟩
  have hmem : u ∈ activeUpdates s := List.mem_filterMap.mpr ⟨s.slots[j], by simp, hu⟩
  have hover := (rectsOverlap_iff_shared_pixel u.rect r).mpr ⟨a, b, hua, hin⟩
  rw [overlapsSlot, List.any_eq_false] at h
  exact h u hmem hover

/-- R25 (f): a startable entry overlaps no active slot. -/
theorem overlapsSlot_of_startable {s : State} {older : List Entry} {x : Entry} (h : startable s older x = true) :
    overlapsSlot s x.rect.val = false :=
  congrArg Unmet.f (of_decide_eq_true h)

/-- R27: the entry taken first is startable behind the entries before it. -/
theorem startable_of_firstStartable {s : State} {acc es older younger : List Entry} {x : Entry}
    (h : firstStartable s acc es = some (older, x, younger)) : startable s older x = true := by
  induction es generalizing acc with
  | nil => cases h
  | cons y es ih =>
    unfold firstStartable at h
    split at h
    · cases h; assumption
    · exact ih h

/-- R32: an entry taken to start keeps the law. -/
theorem startEntry_keepsDrive {s : State} (older younger : List Entry) {x : Entry}
    (h : overlapsSlot s x.rect.val = false) : KeepsDrive s (startEntry older x younger s) := by
  have hqueue : KeepsDrive s { s with queue := older ++ younger } := .of_view rfl
  unfold startEntry
  split
  · exact .refl s
  · rename_i i hi
    split
    · exact hqueue.trans (arm_keepsDrive x _ (lowestFree_slot hi) (slotCovers_of_overlapsSlot h))
    · exact hqueue.trans (.of_view rfl)

theorem evaluateUpTo_keepsDrive (n : Nat) (s : State) : KeepsDrive s (evaluateUpTo n s) := by
  induction n generalizing s with
  | zero => exact .refl s
  | succ n ih =>
    unfold evaluateUpTo
    split
    · exact .refl s
    · rename_i hx
      exact (startEntry_keepsDrive _ _ (overlapsSlot_of_startable (startable_of_firstStartable hx))).trans (ih _)

/-- R27: an evaluation of starts keeps the law. -/
theorem evaluateStarts_keepsDrive (s : State) : KeepsDrive s (evaluateStarts s) := evaluateUpTo_keepsDrive _ s

/-! ### Boundaries, aborts and the rails -/

theorem advanceSlot_keepsDrive (s : State) (i : Fin 8) : KeepsDrive s (advanceSlot s i) := by
  unfold advanceSlot
  split
  case h_1 => exact .refl s
  case h_2 u hi => exact setSlot_keepsDrive fun a b => by rw [hi]; rfl
  case h_3 u hi =>
    split
    · exact completeSlot_keepsDrive hi
    · exact setSlot_keepsDrive fun a b => by rw [hi]; rfl

theorem abortSlot_keepsDrive (result : EndResult) (s : State) (i : Fin 8) : KeepsDrive s (abortSlot result s i) :=
  (clearSlot_keepsDrive i s).trans (.of_view (driveView_abortSlot result s i))

theorem abortAll_keepsDrive (result : EndResult) (s : State) : KeepsDrive s (abortAll result s) :=
  .foldl (abortSlot_keepsDrive result) slotNumbers s

theorem abortIfArmed_keepsDrive (s : State) (i : Fin 8) : KeepsDrive s (abortIfArmed s i) := by
  unfold abortIfArmed
  split
  · exact .refl s
  · exact abortSlot_keepsDrive _ s i
  · exact .refl s

theorem abortArmed_keepsDrive (s : State) : KeepsDrive s (abortArmed s) := .foldl abortIfArmed_keepsDrive slotNumbers s

theorem abandonSlot_keepsDrive (s : State) (i : Fin 8) : KeepsDrive s (abandonSlot s i) :=
  (clearSlot_keepsDrive i s).trans (.of_view (driveView_abandonSlot s i))

/-- R13, R61: a Restart keeps the law. -/
theorem restartTakesEffect_keepsDrive (s : State) : KeepsDrive s (restartTakesEffect s) :=
  (KeepsDrive.foldl abandonSlot_keepsDrive slotNumbers s).trans (.of_view (driveView_restartTakesEffect s))

@[simp] theorem driveView_haltedIfIdle (s : State) : driveView (haltedIfIdle s) = driveView s := by
  unfold haltedIfIdle
  split <;> rfl

/-- R47, R55: what a boundary does to the slots keeps the law. -/
theorem advanceSlots_keepsDrive (s : State) : KeepsDrive s (advanceSlots s) := by
  unfold advanceSlots
  split
  · exact .foldl advanceSlot_keepsDrive slotNumbers s
  · exact (abortAll_keepsDrive _ s).trans (.of_view (driveView_haltedIfIdle _))
  · exact .refl s

@[simp] theorem driveView_demandEndsInOn (s : State) : driveView (demandEndsInOn s) = driveView s := by
  unfold demandEndsInOn
  dsimp only
  split <;> rfl

@[simp] theorem driveView_judgeDemandEnd (s : State) : driveView (judgeDemandEnd s) = driveView s := by
  unfold judgeDemandEnd
  split
  · exact driveView_demandEndsInOn s
  · rfl

/-- R108: a frame boundary keeps the law. -/
theorem deliverBoundary_keepsDrive (s : State) : KeepsDrive s (deliverBoundary s) :=
  (advanceSlots_keepsDrive s).trans ((evaluateStarts_keepsDrive _).trans (.of_view (driveView_judgeDemandEnd _)))

/-- R98: entry into ON keeps the law. -/
theorem enterOn_keepsDrive (s : State) : KeepsDrive s (enterOn s) := by
  have hon : KeepsDrive s (railsOn s) := .of_view rfl
  unfold enterOn
  split
  · exact hon.trans (deliverBoundary_keepsDrive _)
  · exact hon.trans (.of_view (driveView_demandEndsInOn _))

theorem enterRising_keepsDrive (s : State) : KeepsDrive s (enterRising s) := by
  have hrising : KeepsDrive s (railsRising s) := .of_view rfl
  unfold enterRising
  split
  · exact hrising.trans (enterOn_keepsDrive _)
  · exact hrising

theorem demandAppears_keepsDrive (s : State) : KeepsDrive s (demandAppears s) := by
  unfold demandAppears
  cases s.rails.state with
  | off => exact enterRising_keepsDrive s
  | holding => exact enterOn_keepsDrive s
  | rising => exact .refl s
  | on => exact .refl s
  | falling => exact .refl s
  | fault => exact .refl s

/-- R94: an evaluation away from a boundary keeps the law. -/
theorem evaluate_keepsDrive (s : State) : KeepsDrive s (evaluate s) := by
  unfold evaluate
  split
  · exact (evaluateStarts_keepsDrive s).trans (demandAppears_keepsDrive _)
  · exact evaluateStarts_keepsDrive s

/-- R103: entry into FAULT keeps the law. -/
theorem enterFault_keepsDrive (cause : FaultCause) (s : State) : KeepsDrive s (enterFault cause s) := by
  have hdown : KeepsDrive s (offerNotice (.railFault cause s.rails.state)
      { s with rails := { Rails.reset with state := .fault, faultCause := some cause }, frameTimer := .stopped }) :=
    .of_view rfl
  exact hdown.trans ((abortAll_keepsDrive _ _).trans (.of_view (driveView_haltedIfIdle _)))

@[simp] theorem driveView_fastFallRequest (s : State) : driveView (fastFallRequest s) = driveView s := by
  unfold fastFallRequest
  cases s.rails.state <;> rfl

@[simp] theorem driveView_flushQueue (s : State) : driveView (flushQueue s) = driveView s := by
  rw [flushQueue_eq]
  rfl

end Sys2Proof.Machine
end

section
/-! Every command keeps the slots apart and Target equal to Shown outside them: the requests and events that touch neither
the planes nor the slots, then those that end in an evaluation, an abort or a boundary, then the step. -/

namespace Sys2Proof.Machine

/-! ### The Control Line leaves the planes and slots -/

@[simp] theorem driveView_answerEntry (r : Request) (st : Status) (fields : List Byte) (effect : ReplyEffect) (s : State) :
    driveView (answerEntry r st fields effect s) = driveView s := rfl

@[simp] theorem driveView_deferEntry (work : Work) (s : State) : driveView (deferEntry work s) = driveView s := rfl

@[simp] theorem driveView_finishWork (work : Work) (st : Status) (fields : List Byte) (s : State) :
    driveView (finishWork work st fields s) = driveView s := rfl

@[simp] theorem driveView_setReceiver (r : Receiver) (s : State) : driveView (setReceiver r s) = driveView s := rfl

@[simp] theorem driveView_queueAnswer (q : QueuedReply) (s : State) : driveView (queueAnswer q s) = driveView s := by
  obtain ⟨-, h⟩ | ⟨-, h⟩ := queueAnswer_cases q s <;> rw [h] <;> rfl

@[simp] theorem driveView_openSession (seq : Byte) (s : State) : driveView (openSession seq s) = driveView s := by
  rw [openSession, driveView_queueAnswer]
  rfl

@[simp] theorem driveView_reopenSession (seq : Byte) (s : State) : driveView (reopenSession seq s) = driveView s := by
  rw [reopenSession, driveView_queueAnswer]
  rfl

@[simp] theorem driveView_judgeHello (seq : Byte) (payload : List Byte) (s : State) :
    driveView (judgeHello seq payload s) = driveView s := by
  unfold judgeHello
  split
  · simp
  · split <;> simp

/-- R151 to R153. -/
@[simp] theorem driveView_takeHello (seq : Byte) (retry : Bool) (payload : List Byte) (s : State) :
    driveView (takeHello seq retry payload s) = driveView s := by
  unfold takeHello
  split
  · rfl
  · split
    · split <;> simp
    · simp

@[simp] theorem driveView_takeAsNew (seq code : Byte) (payload : List Byte) (s : State) :
    driveView (takeAsNew seq code payload s) = driveView s := by
  unfold takeAsNew answerNobuf
  split
  · rfl
  · split <;> rfl

@[simp] theorem driveView_replaceCached (seq code : Byte) (payload : List Byte) (s : State) :
    driveView (replaceCached seq code payload s) = driveView s := by
  rw [replaceCached, driveView_takeAsNew]
  rfl

@[simp] theorem driveView_admitRetry (seq code : Byte) (payload : List Byte) (s : State) :
    driveView (admitRetry seq code payload s) = driveView s := by
  unfold admitRetry
  split <;> split <;> simp

@[simp] theorem driveView_admitFresh (seq code : Byte) (payload : List Byte) (s : State) :
    driveView (admitFresh seq code payload s) = driveView s := by
  unfold admitFresh
  split
  · simp
  · split <;> simp

/-- R150, R155. -/
@[simp] theorem driveView_takeRequest (seq code : Byte) (retry : Bool) (payload : List Byte) (s : State) :
    driveView (takeRequest seq code retry payload s) = driveView s := by
  unfold takeRequest
  split
  · split <;> simp
  · simp

@[simp] theorem driveView_testFrame (len : Nat) (held : List Byte) (low high : Byte) (s : State) :
    driveView (testFrame len held low high s) = driveView s := by
  unfold testFrame
  split
  · split
    · split
      · split <;> simp
      · rfl
    · rfl
  · rfl

/-- R147: the check of a completed frame. -/
@[simp] theorem driveView_checkFrame (s : State) : driveView (checkFrame s) = driveView s := by
  unfold checkFrame
  split <;> simp

@[simp] theorem driveView_huntByte (value : Byte) (s : State) : driveView (huntByte value s) = driveView s := by
  unfold huntByte
  split <;> rfl

/-- R146: a received byte. -/
@[simp] theorem driveView_takeByte (value : Byte) (s : State) : driveView (takeByte value s) = driveView s := by
  unfold takeByte lengthKnown
  split
  case h_3 => split <;> rfl
  all_goals simp

/-! ### Requests that leave the planes and slots -/

/-- R158: a taking that leaves the planes and slots, whatever the entry. -/
theorem driveView_dispatch (code : RequestCode) {run : Request → State → State} {s : State}
    (h : ∀ r, driveView (run r s) = driveView s) : driveView (dispatch code run s) = driveView s := by
  obtain e | ⟨r, -, e⟩ := dispatch_cases code run s
  · rw [e]
  · rw [e, h]

theorem driveView_reportStatus (r : Request) (s : State) : driveView (reportStatus r s) = driveView s := by
  unfold reportStatus
  split <;> rfl

theorem driveView_reportParameter (r : Request) (s : State) : driveView (reportParameter r s) = driveView s := by
  unfold reportParameter
  split <;> rfl

theorem driveView_takeRestart (r : Request) (s : State) : driveView (takeRestart r s) = driveView s := by
  unfold takeRestart
  split <;> rfl

theorem driveView_grant (r : Request) (s : State) : driveView (grant r s) = driveView s := by
  unfold grant
  split <;> rfl

theorem driveView_queryUpdate (r : Request) (s : State) : driveView (queryUpdate r s) = driveView s := by
  unfold queryUpdate
  split <;> rfl

theorem driveView_takeReadPixels (r : Request) (s : State) : driveView (takeReadPixels r s) = driveView s := by
  unfold takeReadPixels
  split <;> rfl

theorem driveView_takeJob (r : Request) (kind : JobKind) (s : State) : driveView (takeJob r kind s) = driveView s := by
  unfold takeJob
  split
  · rfl
  · split <;> rfl

theorem driveView_takeFill (r : Request) (s : State) : driveView (takeFill r s) = driveView s := by
  unfold takeFill
  split
  · rfl
  · exact driveView_takeJob _ _ s

theorem driveView_takeCopy (r : Request) (s : State) : driveView (takeCopy r s) = driveView s := by
  unfold takeCopy
  split
  · rfl
  · exact driveView_takeJob _ _ s

theorem driveView_openBank (r : Request) (s : State) : driveView (openBank r s) = driveView s := by
  unfold openBank
  split
  · rfl
  · split <;> simp

theorem driveView_storeBankData (r : Request) (s : State) : driveView (storeBankData r s) = driveView s := by
  unfold storeBankData
  split
  · rfl
  · split <;> simp

theorem driveView_beginVerify (r : Request) (s : State) : driveView (beginVerify r s) = driveView s := by
  unfold beginVerify
  split
  · rfl
  · split
    case h_1 => split <;> simp
    all_goals simp

theorem driveView_takeActivate (r : Request) (s : State) : driveView (takeActivate r s) = driveView s := by
  unfold takeActivate activateBank
  split
  · rfl
  · split <;> simp

theorem driveView_eraseBank (r : Request) (s : State) : driveView (eraseBank r s) = driveView s := by
  unfold eraseBank
  split
  · rfl
  · split <;> simp

theorem driveView_finishVerify (bank : BankId) (s : State) : driveView (finishVerify bank s) = driveView s := by
  simp [finishVerify]

theorem driveView_ageReading (r : Reading) (s : State) : driveView (ageReading r s) = driveView s := by
  unfold ageReading
  dsimp only
  split <;> rfl

/-! ### Requests that evaluate starts, abort or halt -/

/-- R158: a taking keeps the law when the request does, whatever the entry. -/
theorem dispatch_keepsDrive (code : RequestCode) {run : Request → State → State} {s : State}
    (h : ∀ r, KeepsDrive s (run r s)) : KeepsDrive s (dispatch code run s) := by
  obtain e | ⟨r, -, e⟩ := dispatch_cases code run s
  · rw [e]; exact .refl s
  · rw [e]; exact h r

theorem submitUpdate_keepsDrive (r : Request) (s : State) : KeepsDrive s (submitUpdate r s) := by
  unfold submitUpdate
  split
  · exact .of_view rfl
  · split
    · exact .of_view rfl
    · exact (evaluate_keepsDrive _).after_view rfl

theorem cancelUpdate_keepsDrive (r : Request) (s : State) : KeepsDrive s (cancelUpdate r s) := by
  unfold cancelUpdate
  split
  · exact .of_view rfl
  · split
    · exact (evaluate_keepsDrive _).after_view rfl
    · split <;> exact .of_view rfl

@[simp] theorem driveView_flushIfAsked (flush : Bool) (s : State) : driveView (flushIfAsked flush s) = driveView s := by
  unfold flushIfAsked
  split <;> simp

theorem abortUnlessOn_keepsDrive (s : State) : KeepsDrive s (abortUnlessOn s) := by
  unfold abortUnlessOn
  split
  · exact .refl s
  · exact abortArmed_keepsDrive s

theorem beginHalt_keepsDrive (flush : Bool) (s : State) : KeepsDrive s (beginHalt flush s) := by
  have hbegun : driveView (fastFallRequest (flushIfAsked flush (deferEntry .halt { s with halt := .halting }))) =
      driveView s := by
    rw [driveView_fastFallRequest, driveView_flushIfAsked]
    rfl
  exact (KeepsDrive.of_view hbegun).trans ((abortUnlessOn_keepsDrive _).trans (.of_view (driveView_haltedIfIdle _)))

/-- R54, R57. -/
theorem takeHalt_keepsDrive (r : Request) (s : State) : KeepsDrive s (takeHalt r s) := by
  unfold takeHalt haltAgain
  split
  · exact .of_view rfl
  · cases s.halt with
    | running => exact beginHalt_keepsDrive _ s
    | halting => exact beginHalt_keepsDrive _ s
    | halted => exact .of_view (by simp)

/-- R58. -/
theorem takeResume_keepsDrive (r : Request) (s : State) : KeepsDrive s (takeResume r s) := by
  unfold takeResume
  split
  · exact .of_view rfl
  · cases s.halt with
    | running => exact .of_view rfl
    | halting => exact .of_view rfl
    | halted => exact (evaluate_keepsDrive _).after_view rfl

theorem setReading_keepsDrive (value : Int) (s : State) : KeepsDrive s (setReading value s) := by
  unfold setReading
  dsimp only
  split
  · exact .of_view rfl
  · exact (evaluate_keepsDrive _).after_view rfl

theorem reportTemperature_keepsDrive (r : Request) (s : State) : KeepsDrive s (reportTemperature r s) := by
  unfold reportTemperature
  split
  · exact .of_view rfl
  · split
    · exact .of_view rfl
    · exact (setReading_keepsDrive _ _).after_view rfl

@[simp] theorem driveView_sourceChanged (s : State) : driveView (sourceChanged s) = driveView s := by
  unfold sourceChanged
  dsimp only
  split <;> rfl

theorem limitChanged_keepsDrive (wasValid : Bool) (s : State) : KeepsDrive s (limitChanged wasValid s) := by
  unfold limitChanged
  split
  · exact .refl s
  · split
    · exact .of_view rfl
    · split
      · exact evaluate_keepsDrive s
      · exact .refl s

theorem parameterActs_keepsDrive (q : ParamId) (before s : State) : KeepsDrive s (parameterActs q before s) := by
  unfold parameterActs
  split
  · exact .of_view (driveView_sourceChanged s)
  · exact limitChanged_keepsDrive _ s
  · exact .refl s

/-- R177. -/
theorem setParameter_keepsDrive (r : Request) (s : State) : KeepsDrive s (setParameter r s) := by
  unfold setParameter changeParameter
  split
  · exact .of_view rfl
  · split
    · exact .of_view rfl
    · exact (parameterActs_keepsDrive _ _ _).after_view rfl

theorem clearFault_keepsDrive (r : Request) (s : State) : KeepsDrive s (clearFault r s) := by
  unfold clearFault
  split
  · exact .of_view rfl
  · split
    · exact (evaluate_keepsDrive _).after_view rfl
    · exact .of_view rfl

theorem takeLoadOpen_keepsDrive (r : Request) (s : State) : KeepsDrive s (takeLoadOpen r s) := by
  unfold takeLoadOpen
  split
  · exact .of_view rfl
  · split
    · exact .of_view rfl
    · exact (evaluate_keepsDrive _).after_view rfl

theorem takeLoadClose_keepsDrive (r : Request) (s : State) : KeepsDrive s (takeLoadClose r s) := by
  unfold takeLoadClose
  split
  · exact .of_view rfl
  · split
    · exact .of_view rfl
    · exact (evaluate_keepsDrive _).after_view rfl

theorem losePower_keepsDrive (s : State) : KeepsDrive s (losePower s) := by
  unfold losePower loseSettling
  cases s.rails.state with
  | off => exact .refl s
  | rising =>
    dsimp only
    split
    · split
      · exact enterFault_keepsDrive _ s
      · exact .of_view rfl
    · exact .refl s
  | on => exact enterFault_keepsDrive _ s
  | holding => exact enterFault_keepsDrive _ s
  | falling => exact .refl s
  | fault => exact .refl s

theorem fallEnds_keepsDrive (s : State) : KeepsDrive s (fallEnds s) := by
  unfold fallEnds
  dsimp only
  split
  · exact (enterRising_keepsDrive _).after_view rfl
  · exact .of_view rfl

/-- R144, R162, R183: what follows the last byte of a reply. -/
theorem replyEffect_keepsDrive (effect : ReplyEffect) (s : State) : KeepsDrive s (replyEffect effect s) := by
  unfold replyEffect
  split
  · exact .refl s
  · exact .of_view (driveView_checkFrame s)
  · exact restartTakesEffect_keepsDrive s

/-! ### Pending -/

/-- R136, R137: the final image of a RUNNING job fits its destination. -/
theorem PlanesLaw.image_form {s : State} (h : PlanesLaw s) {j : Job} {k : Nat} {image : Plane Level}
    (hj : j ∈ s.raster.jobs) (hrun : j.progress = .running k image) :
    planeWf (jobTarget j.kind).val.width (jobTarget j.kind).val.height image = true := by
  obtain ⟨-, hprogress⟩ := h.2.2.2 j hj
  rw [hrun] at hprogress
  exact hprogress.2

/-- R138: the completion of a job keeps the law: Pending takes an image of its destination's size. -/
theorem finishJob_keepsDrive {j : Job} {image : Plane Level} (rest : List Job) (s : State)
    (himage : planeWf (jobTarget j.kind).val.width (jobTarget j.kind).val.height image = true) :
    KeepsDrive s (finishJob j rest image s) := by
  intro h
  obtain ⟨-, -, hc, hr⟩ := region_on_panel (jobTarget j.kind)
  exact ⟨planeWf_planePaste _ _ _ _ _ h.pendingForm himage hc hr, ⟨h.form.target, h.form.shown⟩, h.apart, h.agree⟩

/-! ### The commands -/

/-- What holds of the state after a command, if it completes. -/
def holdsAfter (P : State → Prop) : Host.Outcome State Fault Refusal → Prop
  | .next t => P t
  | .fault _ => True
  | .refused _ => True

theorem holdsAfter_next {P : State → Prop} {o : Host.Outcome State Fault Refusal} {t : State} (h : holdsAfter P o)
    (e : o = .next t) : P t := by
  rw [e] at h
  exact h

theorem execGapTimeout_keepsDrive (s : State) : holdsAfter (KeepsDrive s) (execGapTimeout s) := by
  unfold execGapTimeout
  split
  · split <;> exact .of_view rfl
  · exact .refl s

theorem execFrame_keepsDrive (s : State) : holdsAfter (KeepsDrive s) (execFrame s) := by
  unfold execFrame
  split
  · exact .of_view (driveView_checkFrame s)
  · exact .refl s

theorem execHello_keepsDrive (s : State) : holdsAfter (KeepsDrive s) (execHello s) := by
  unfold execHello
  split
  · exact .of_view (driveView_checkFrame s)
  · exact .refl s

theorem execUnknownCode_keepsDrive (s : State) : holdsAfter (KeepsDrive s) (execUnknownCode s) := by
  unfold execUnknownCode
  split
  · exact .refl s
  · split
    · exact .of_view rfl
    · exact .refl s

/-- R138. -/
theorem execJobCompletion_keepsDrive {s : State} (hplanes : PlanesLaw s) :
    holdsAfter (KeepsDrive s) (execJobCompletion s) := by
  unfold execJobCompletion
  split
  · exact .refl s
  · rename_i j rest hjobs
    split
    · exact .refl s
    · rename_i k image hrun
      exact (finishJob_keepsDrive rest s (hplanes.image_form (by rw [hjobs]; exact List.mem_cons_self) hrun)).trans
        ((evaluate_keepsDrive _).after_view (driveView_finishWork _ _ _ _))

theorem execVerificationComplete_keepsDrive (bank : BankId) (s : State) :
    holdsAfter (KeepsDrive s) (execVerificationComplete bank s) := by
  unfold execVerificationComplete
  split
  · exact .of_view (driveView_finishVerify bank s)
  · exact .refl s

theorem execFrameBoundary_keepsDrive (s : State) : holdsAfter (KeepsDrive s) (execFrameBoundary s) := by
  unfold execFrameBoundary
  split
  · exact .refl s
  · exact deliverBoundary_keepsDrive s

theorem execPowerGoodAssert_keepsDrive (s : State) : holdsAfter (KeepsDrive s) (execPowerGoodAssert s) := by
  unfold execPowerGoodAssert
  split
  · exact .refl s
  · split <;> exact .of_view rfl

theorem execPowerGoodLoss_keepsDrive (s : State) : holdsAfter (KeepsDrive s) (execPowerGoodLoss s) := by
  unfold execPowerGoodLoss
  split
  · split
    · exact (losePower_keepsDrive _).after_view rfl
    · exact .of_view rfl
  · exact .refl s

theorem execRiseTimerExpiry_keepsDrive (s : State) : holdsAfter (KeepsDrive s) (execRiseTimerExpiry s) := by
  unfold execRiseTimerExpiry
  split
  · split
    · exact .of_view rfl
    · exact enterFault_keepsDrive _ s
  · exact .refl s

theorem execSettleTimerExpiry_keepsDrive (s : State) : holdsAfter (KeepsDrive s) (execSettleTimerExpiry s) := by
  unfold execSettleTimerExpiry
  split
  · exact enterOn_keepsDrive s
  · exact .refl s

theorem execHoldTimerExpiry_keepsDrive (s : State) : holdsAfter (KeepsDrive s) (execHoldTimerExpiry s) := by
  unfold execHoldTimerExpiry
  split <;> exact .of_view rfl

theorem execFallTimerExpiry_keepsDrive (s : State) : holdsAfter (KeepsDrive s) (execFallTimerExpiry s) := by
  unfold execFallTimerExpiry
  split
  · exact fallEnds_keepsDrive s
  · exact .refl s

theorem execConversionStart_keepsDrive (s : State) : holdsAfter (KeepsDrive s) (execConversionStart s) := by
  unfold execConversionStart
  split <;> exact .of_view rfl

theorem execConversionComplete_keepsDrive (result : SensorResult) (s : State) :
    holdsAfter (KeepsDrive s) (execConversionComplete result s) := by
  unfold execConversionComplete
  split
  · split
    · exact (setReading_keepsDrive _ _).after_view rfl
    · exact .refl s
  · trivial

theorem execAgeRise_keepsDrive (s : State) : holdsAfter (KeepsDrive s) (execAgeRise s) := by
  unfold execAgeRise
  split
  · exact .refl s
  · exact .of_view (driveView_ageReading _ s)

theorem execReadingBecomesStale_keepsDrive (s : State) : holdsAfter (KeepsDrive s) (execReadingBecomesStale s) := by
  unfold execReadingBecomesStale
  split
  · exact .refl s
  · split
    · exact .of_view (driveView_ageReading _ s)
    · exact .refl s

theorem execReplyBegin_keepsDrive (s : State) : holdsAfter (KeepsDrive s) (execReplyBegin s) := by
  unfold execReplyBegin
  split <;> exact .of_view rfl

theorem execReplySent_keepsDrive (s : State) : holdsAfter (KeepsDrive s) (execReplySent s) := by
  unfold execReplySent
  split
  · exact (replyEffect_keepsDrive _ _).after_view (by simp)
  · exact .refl s
  · exact .refl s

theorem execNoticeBegin_keepsDrive (s : State) : holdsAfter (KeepsDrive s) (execNoticeBegin s) := by
  unfold execNoticeBegin
  split
  · split <;> exact .of_view rfl
  · exact .refl s

theorem execNoticeSent_keepsDrive (s : State) : holdsAfter (KeepsDrive s) (execNoticeSent s) := by
  unfold execNoticeSent
  split <;> exact .of_view rfl

/-- R12: a pin reset brings the law about. -/
theorem execPinReset_keepsDrive (s : State) : holdsAfter (KeepsDrive s) (execPinReset s) := by
  have hreset : DriveLaw State.reset :=
    ⟨planesLaw_reset.1, planesLaw_reset.imageForm, slotsApart_reset, agreementLaw_reset⟩
  exact fun _ => KeepsDrive.of_view (s := State.reset) rfl hreset

theorem execStartUp_keepsDrive (s : State) : holdsAfter (KeepsDrive s) (execStartUp s) := by
  unfold execStartUp
  split <;> exact .of_view rfl

theorem execStartUpEnd_keepsDrive (s : State) : holdsAfter (KeepsDrive s) (execStartUpEnd s) := by
  unfold execStartUpEnd
  split <;> exact .of_view rfl

theorem execReceivedByte_keepsDrive (value : Byte) (s : State) : holdsAfter (KeepsDrive s) (execReceivedByte value s) := by
  unfold execReceivedByte
  split
  · split
    · exact .of_view rfl
    · exact .of_view (driveView_takeByte value s)
  · exact .refl s

/-- R9, R40: every command keeps the law but for the two that write single pixels of Pending. -/
theorem exec_keepsDrive {s : State} (hplanes : PlanesLaw s) (c : Instr) (hload : c ≠ .loadData)
    (hjob : c ≠ .jobWritesPixel) : holdsAfter (KeepsDrive s) (exec c s) := by
  cases c with
  | frame => exact execFrame_keepsDrive s
  | gapTimeout => exact execGapTimeout_keepsDrive s
  | hello => exact execHello_keepsDrive s
  | unknownCode => exact execUnknownCode_keepsDrive s
  | getStatus => exact .of_view (driveView_dispatch _ (driveView_reportStatus · s))
  | getParameter => exact .of_view (driveView_dispatch _ (driveView_reportParameter · s))
  | setParameter => exact dispatch_keepsDrive _ (setParameter_keepsDrive · s)
  | restart => exact .of_view (driveView_dispatch _ (driveView_takeRestart · s))
  | grantNotices => exact .of_view (driveView_dispatch _ (driveView_grant · s))
  | submitUpdate => exact dispatch_keepsDrive _ (submitUpdate_keepsDrive · s)
  | cancelUpdate => exact dispatch_keepsDrive _ (cancelUpdate_keepsDrive · s)
  | queryUpdate => exact .of_view (driveView_dispatch _ (driveView_queryUpdate · s))
  | halt => exact dispatch_keepsDrive _ (takeHalt_keepsDrive · s)
  | resume => exact dispatch_keepsDrive _ (takeResume_keepsDrive · s)
  | bankOpen => exact .of_view (driveView_dispatch _ (driveView_openBank · s))
  | bankData => exact .of_view (driveView_dispatch _ (driveView_storeBankData · s))
  | bankVerify => exact .of_view (driveView_dispatch _ (driveView_beginVerify · s))
  | bankActivate => exact .of_view (driveView_dispatch _ (driveView_takeActivate · s))
  | bankErase => exact .of_view (driveView_dispatch _ (driveView_eraseBank · s))
  | temperatureReport => exact dispatch_keepsDrive _ (reportTemperature_keepsDrive · s)
  | clearFault => exact dispatch_keepsDrive _ (clearFault_keepsDrive · s)
  | loadOpen => exact dispatch_keepsDrive _ (takeLoadOpen_keepsDrive · s)
  | loadData => exact absurd rfl hload
  | loadClose => exact dispatch_keepsDrive _ (takeLoadClose_keepsDrive · s)
  | readPixels => exact .of_view (driveView_dispatch _ (driveView_takeReadPixels · s))
  | fill => exact .of_view (driveView_dispatch _ (driveView_takeFill · s))
  | copy => exact .of_view (driveView_dispatch _ (driveView_takeCopy · s))
  | jobCompletion => exact execJobCompletion_keepsDrive hplanes
  | verificationComplete bank => exact execVerificationComplete_keepsDrive bank s
  | frameBoundary => exact execFrameBoundary_keepsDrive s
  | powerGoodAssert => exact execPowerGoodAssert_keepsDrive s
  | powerGoodLoss => exact execPowerGoodLoss_keepsDrive s
  | riseTimerExpiry => exact execRiseTimerExpiry_keepsDrive s
  | settleTimerExpiry => exact execSettleTimerExpiry_keepsDrive s
  | holdTimerExpiry => exact execHoldTimerExpiry_keepsDrive s
  | fallTimerExpiry => exact execFallTimerExpiry_keepsDrive s
  | conversionStart => exact execConversionStart_keepsDrive s
  | conversionComplete result => exact execConversionComplete_keepsDrive result s
  | ageRise => exact execAgeRise_keepsDrive s
  | readingBecomesStale => exact execReadingBecomesStale_keepsDrive s
  | replyBegin => exact execReplyBegin_keepsDrive s
  | replySent => exact execReplySent_keepsDrive s
  | noticeBegin => exact execNoticeBegin_keepsDrive s
  | noticeSent => exact execNoticeSent_keepsDrive s
  | pinReset => exact execPinReset_keepsDrive s
  | startUp => exact execStartUp_keepsDrive s
  | startUpEnd => exact execStartUpEnd_keepsDrive s
  | receivedByte value => exact execReceivedByte_keepsDrive value s
  | jobWritesPixel => exact absurd rfl hjob

theorem takeLoadData_frame (r : Request) (s : State) : (takeLoadData r s).target = s.target ∧
    (takeLoadData r s).shown = s.shown ∧ (takeLoadData r s).slots = s.slots := by
  unfold takeLoadData
  split
  · exact ⟨rfl, rfl, rfl⟩
  · split <;> exact ⟨rfl, rfl, rfl⟩

theorem execJobWritesPixel_frame (s : State) :
    holdsAfter (fun t => t.target = s.target ∧ t.shown = s.shown ∧ t.slots = s.slots) (execJobWritesPixel s) := by
  unfold execJobWritesPixel
  split
  · exact ⟨rfl, rfl, rfl⟩
  · split
    · exact ⟨rfl, rfl, rfl⟩
    · split <;> exact ⟨rfl, rfl, rfl⟩

/-- R120, R136: a Load Data and a job's next pixel write Pending alone of the planes, and no slot. -/
theorem exec_pixelWriter_frame {c : Instr} {s t : State} (hc : c = .loadData ∨ c = .jobWritesPixel)
    (h : exec c s = .next t) : t.target = s.target ∧ t.shown = s.shown ∧ t.slots = s.slots := by
  obtain rfl | rfl := hc
  · have ht : dispatch .loadData takeLoadData s = t := Host.Outcome.next.inj h
    obtain e | ⟨r, -, e⟩ := dispatch_cases .loadData takeLoadData s
    · rw [← ht, e]
      exact ⟨rfl, rfl, rfl⟩
    · rw [← ht, e]
      exact takeLoadData_frame r s
  · exact holdsAfter_next (execJobWritesPixel_frame s) h

theorem DriveLaw.agreement {s : State} (h : DriveLaw s) : SlotsApart s ∧ AgreementLaw s := ⟨h.apart, h.agree⟩

/-- Settles O52: the two commands that write single pixels of Pending leave Target, Shown and the slots, and every other
keeps the drive law. -/
theorem stepKeepsTheAgreement : Obligations.StepKeepsTheAgreement := by
  intro s t hplanes hapart hagree hstep
  unfold step at hstep
  split at hstep
  · cases hstep
    exact ⟨hapart, hagree⟩
  · rename_i c rest _
    by_cases hc : c = .loadData ∨ c = .jobWritesPixel
    · obtain ⟨htarget, hshown, hslots⟩ := exec_pixelWriter_frame hc hstep
      exact agreement_congr htarget hshown hslots ⟨hapart, hagree⟩
    · have hplanes' : PlanesLaw { s with pending := rest } := hplanes
      have hlaw : DriveLaw { s with pending := rest } := ⟨hplanes'.1, hplanes'.imageForm, hapart, hagree⟩
      obtain ⟨hload, hjob⟩ := not_or.mp hc
      exact (holdsAfter_next (exec_keepsDrive hplanes' c hload hjob) hstep hlaw).agreement

end Sys2Proof.Machine
end

section
/-! Update ids (R21): the counter's walk through the ids and the fresh id an accepted update takes; the updates of the
active slots when one slot changes. -/

namespace Sys2Proof.Machine

/-! ### The walk of the id counter -/

/-- R21: the next id of an update id is an update id. -/
theorem isUpdateId_nextId {id : Nat} (h : isUpdateId id) : isUpdateId (nextId id) := by
  unfold isUpdateId nextId at *
  split <;> omega

theorem isUpdateId_iterate_nextId {id : Nat} (h : isUpdateId id) (k : Nat) : isUpdateId (nextId^[k] id) := by
  induction k with
  | zero => exact h
  | succ k ih => rw [Function.iterate_succ_apply']; exact isUpdateId_nextId ih

/-- R21: the counter runs through the 65,535 ids in a circle. -/
theorem iterate_nextId_eq {id : Nat} (h : isUpdateId id) (k : Nat) : nextId^[k] id = (id - 1 + k) % 65535 + 1 := by
  unfold isUpdateId at h
  induction k with
  | zero => rw [Function.iterate_zero_apply]; omega
  | succ k ih => rw [Function.iterate_succ_apply', ih, nextId]; split <;> omega

/-- R21: the walk ends at one of its first values, and at an id in use only when all of them are. -/
theorem freeId_walk (used : List Nat) (n id : Nat) :
    (∃ k, freeId n used id = nextId^[k] id) ∧ (freeId n used id ∈ used → ∀ k ≤ n, nextId^[k] id ∈ used) := by
  induction n generalizing id with
  | zero =>
    refine ⟨⟨0, rfl⟩, fun h k hk => ?_⟩
    rw [Nat.le_zero.mp hk]
    exact h
  | succ n ih =>
    unfold freeId
    by_cases hused : id ∈ used
    · obtain ⟨⟨k, hk⟩, hall⟩ := ih (nextId id)
      rw [if_pos hused]
      refine ⟨⟨k + 1, hk⟩, fun h k hk => ?_⟩
      cases k with
      | zero => exact hused
      | succ k => exact hall h k (Nat.le_of_succ_le_succ hk)
    · rw [if_neg hused]
      exact ⟨⟨0, rfl⟩, fun h => absurd h hused⟩

/-- R21: with fewer ids in use than there are, the walk ends at a free one. -/
theorem freeId_not_mem {used : List Nat} {id : Nat} (hid : isUpdateId id) (hfew : used.length < 65535) :
    freeId used.length used id ∉ used := by
  intro hmem
  have hall := (freeId_walk used used.length id).2 hmem
  have hwalk : ((List.range (used.length + 1)).map fun k => nextId^[k] id).Nodup := by
    refine List.Nodup.map_on (fun a ha b hb hab => ?_) List.nodup_range
    rw [List.mem_range] at ha hb
    rw [iterate_nextId_eq hid, iterate_nextId_eq hid] at hab
    unfold isUpdateId at hid
    omega
  have hsub : ((List.range (used.length + 1)).map fun k => nextId^[k] id) ⊆ used := by
    intro v hv
    obtain ⟨k, hk, rfl⟩ := List.mem_map.mp hv
    exact hall k (Nat.lt_succ_iff.mp (List.mem_range.mp hk))
  have hlength := (hwalk.subperm hsub).length_le
  rw [List.length_map, List.length_range] at hlength
  omega

theorem freeId_of_not_mem {used : List Nat} {id : Nat} (n : Nat) (h : id ∉ used) : freeId n used id = id := by
  cases n with
  | zero => rfl
  | succ n => rw [freeId, if_neg h]

/-! ### The ids in use -/

/-- R39: there are at most 8 active updates. -/
theorem activeUpdates_length_le (s : State) : (activeUpdates s).length ≤ 8 :=
  (List.length_filterMap_le _ _).trans (by simp)

theorem idsInUse_length_le (s : State) : (idsInUse s).length ≤ s.queue.length + 8 := by
  have := activeUpdates_length_le s
  simp only [idsInUse, List.length_append, List.length_map]
  omega

theorem activeUpdates_congr {s t : State} (h : t.slots = s.slots) : activeUpdates t = activeUpdates s := by
  rw [activeUpdates, h, activeUpdates]

/-- R39: an active slot's update is one of the active updates. -/
theorem mem_activeUpdates_iff {s : State} {u : Update} :
    u ∈ activeUpdates s ↔ ∃ i : Fin 8, slotUpdate s.slots[i] = some u := by
  rw [activeUpdates, List.mem_filterMap]
  constructor
  · rintro ⟨x, hx, hu⟩
    obtain ⟨n, hn, rfl⟩ := Vector.mem_iff_getElem.mp (Vector.mem_toList_iff.mp hx)
    exact ⟨⟨n, hn⟩, hu⟩
  · rintro ⟨i, hu⟩
    exact ⟨s.slots[i], by simp, hu⟩

/-- R39: a change of one slot leaves the updates of the other slots. -/
theorem activeUpdates_setSlot (i : Fin 8) (s : State) : ∃ others : List Update,
    (activeUpdates s).Perm ((slotUpdate s.slots[i]).toList ++ others) ∧
      ∀ x, (activeUpdates (setSlot i x s)).Perm ((slotUpdate x).toList ++ others) := by
  have hi : i.val < s.slots.toList.length := by simp
  have hcons : ∀ (x : Slot) (l : List Slot),
      (x :: l).filterMap slotUpdate = (slotUpdate x).toList ++ l.filterMap slotUpdate := fun x l => by
    cases hx : slotUpdate x <;> simp [hx]
  refine ⟨(s.slots.toList.eraseIdx i).filterMap slotUpdate, ?_, fun x => ?_⟩
  · have h := (List.getElem_cons_eraseIdx_perm hi).symm.filterMap slotUpdate
    rw [hcons] at h
    simpa [activeUpdates] using h
  · have h := (List.set_perm_cons_eraseIdx hi x).filterMap slotUpdate
    rw [hcons] at h
    simpa [activeUpdates, Vector.toList_set] using h

/-- R21: an accepted update takes a free id in range. -/
theorem allocateId_fresh {s : State} (hcounter : isUpdateId s.idCounter) (hroom : s.queue.length ≤ 16) :
    allocateId s ∉ idsInUse s ∧ isUpdateId (allocateId s) := by
  have hlength := idsInUse_length_le s
  obtain ⟨k, hk⟩ := (freeId_walk (idsInUse s) (idsInUse s).length s.idCounter).1
  exact ⟨freeId_not_mem hcounter (by omega), by rw [allocateId, hk]; exact isUpdateId_iterate_nextId hcounter k⟩

/-- Settles O23: at most 24 ids are in use, and the counter's walk through more ids than that meets a free one. -/
theorem updateIdIsFresh : Obligations.UpdateIdIsFresh := by
  rintro s ⟨-, -, -, hcounter, -⟩ hroom
  obtain ⟨hfree, hrange⟩ := allocateId_fresh hcounter (Nat.le_of_lt hroom)
  exact ⟨hfree, hrange, freeId_of_not_mem _⟩

end Sys2Proof.Machine
end

section
/-! Starts (R25 to R32, R37): each start condition against its bit, the entry an evaluation takes, what an evaluation leaves in
the queue, and the start checks. -/

namespace Sys2Proof.Machine

/-! ### The start conditions -/

/-- R190: the unmet condition of a number, 0 for (a) to 7 for (h). -/
def unmetBit (u : Unmet) : Fin 8 → Bool
  | 0 => u.a
  | 1 => u.b
  | 2 => u.c
  | 3 => u.d
  | 4 => u.e
  | 5 => u.f
  | 6 => u.g
  | 7 => u.h

/-- R5: rectangles do not overlap exactly when they share no pixel. -/
theorem rectsOverlap_eq_false_iff (r q : Region) : rectsOverlap r.val q.val = false ↔ regionsApart r q := by
  rw [← Bool.not_eq_true, rectsOverlap_iff_shared_pixel]
  simp only [regionsApart, not_exists]

theorem readingValid_iff (s : State) :
    readingValid s = true ↔ ∃ g, s.temp.reading = some g ∧ g.age ≤ s.params.staleLimit := by
  unfold readingValid
  cases s.temp.reading <;> simp

theorem fenceReached_iff (fence : Option Nat) (mark : Nat) :
    fenceReached fence mark = true ↔ ∀ n, fence = some n → n ≤ mark := by
  cases fence <;> simp [fenceReached]

theorem overlapsSlot_eq_false_iff (s : State) (r : Region) : overlapsSlot s r.val = false ↔
    ∀ (i : Fin 8) (u : Update), slotUpdate s.slots[i] = some u → regionsApart u.rect r := by
  simp only [overlapsSlot, List.any_eq_false, Bool.not_eq_true, rectsOverlap_eq_false_iff, mem_activeUpdates_iff]
  exact ⟨fun h i u hu => h u ⟨i, hu⟩, fun h u ⟨i, hu⟩ => h i u hu⟩

theorem overlapsEntry_eq_false_iff (es : List Entry) (r : Region) :
    overlapsEntry es r.val = false ↔ ∀ y ∈ es, regionsApart y.rect r := by
  simp only [overlapsEntry, List.any_eq_false, Bool.not_eq_true, rectsOverlap_eq_false_iff]

theorem slotIsFree_iff (x : Slot) : slotIsFree x = true ↔ x = .free := by
  cases x <;> simp [slotIsFree]

theorem lowestFree_eq_none_iff (s : State) : lowestFree s = none ↔ ¬ ∃ i : Fin 8, s.slots[i] = .free := by
  simp only [lowestFree, List.find?_eq_none, slotIsFree_iff, mem_slotNumbers, true_implies, not_exists]

/-- R25, R37: a condition is unmet exactly when it does not hold. -/
theorem unmetBit_iff (s : State) (older : List Entry) (x : Entry) (k : Fin 8) :
    unmetBit (unmetConditions s older x) k = true ↔ ¬ startCondition s older x k := by
  match k with
  | 0 => exact decide_eq_true_iff
  | 1 => simp [unmetBit, unmetConditions, startCondition]
  | 2 =>
    show (!readingValid s) = true ↔ ¬ _
    rw [Bool.not_eq_true', ← Bool.not_eq_true, readingValid_iff]
    rfl
  | 3 =>
    show (!fenceReached x.rasterFence s.raster.mark) = true ↔ ¬ _
    rw [Bool.not_eq_true', ← Bool.not_eq_true, fenceReached_iff]
    rfl
  | 4 => simp [unmetBit, unmetConditions, startCondition]
  | 5 =>
    show overlapsSlot s x.rect.val = true ↔ ¬ _
    rw [← Bool.not_eq_false, overlapsSlot_eq_false_iff]
    rfl
  | 6 =>
    show overlapsEntry older x.rect.val = true ↔ ¬ _
    rw [← Bool.not_eq_false, overlapsEntry_eq_false_iff]
    rfl
  | 7 =>
    show (lowestFree s).isNone = true ↔ ¬ _
    rw [Option.isNone_iff_eq_none, lowestFree_eq_none_iff]
    rfl

/-- R25: an entry is startable exactly when no condition is unmet. -/
theorem startable_iff_unmetBit (s : State) (older : List Entry) (x : Entry) :
    startable s older x = true ↔ ∀ k, unmetBit (unmetConditions s older x) k = false := by
  rw [startable, decide_eq_true_iff]
  refine ⟨fun h k => by rw [h]; revert k; decide, fun h => ?_⟩
  rw [Unmet.mk.injEq]
  exact ⟨h 0, h 1, h 2, h 3, h 4, h 5, h 6, h 7⟩

theorem startable_iff (s : State) (older : List Entry) (x : Entry) :
    startable s older x = true ↔ ∀ k, startCondition s older x k := by
  simp only [startable_iff_unmetBit, ← Bool.not_eq_true, unmetBit_iff, not_not]

/-- R25 (h): a startable entry has a slot to arm into. -/
theorem lowestFree_of_startable {s : State} {older : List Entry} {x : Entry} (h : startable s older x = true) :
    lowestFree s ≠ none := by
  rw [ne_eq, lowestFree_eq_none_iff, not_not]
  exact (startable_iff s older x).mp h 7

/-! ### The entry taken -/

/-- R27: the entry taken stands in the queue between the entries it is taken with. -/
theorem append_of_firstStartable {s : State} {acc es older younger : List Entry} {x : Entry}
    (h : firstStartable s acc es = some (older, x, younger)) : acc ++ es = older ++ x :: younger := by
  induction es generalizing acc with
  | nil => cases h
  | cons y es ih =>
    unfold firstStartable at h
    split at h
    · cases h; rfl
    · rw [← ih h, List.append_assoc]; rfl

/-- R27: with no entry taken none is startable. -/
theorem startable_of_firstStartable_none {s : State} {acc before after : List Entry} {y : Entry}
    (h : firstStartable s acc (before ++ y :: after) = none) : startable s (acc ++ before) y = false := by
  induction before generalizing acc with
  | nil =>
    rw [List.nil_append, firstStartable] at h
    split at h
    · cases h
    · rw [List.append_nil]
      exact Bool.eq_false_iff.mpr ‹_›
  | cons z before ih =>
    rw [List.cons_append, firstStartable] at h
    split at h
    · cases h
    · simpa using ih h

/-- R27: an evaluation keeps what holds at its start and is kept by each taking of a startable entry. -/
theorem evaluateUpTo_induction {P : State → Prop}
    (htake : ∀ (s : State) (older younger : List Entry) (x : Entry), s.queue = older ++ x :: younger →
      startable s older x = true → P s → P (startEntry older x younger s))
    (n : Nat) (s : State) (h : P s) : P (evaluateUpTo n s) := by
  induction n generalizing s with
  | zero => exact h
  | succ n ih =>
    unfold evaluateUpTo
    split
    · exact h
    · rename_i older x younger hfirst
      exact ih _ (htake s older younger x (append_of_firstStartable hfirst) (startable_of_firstStartable hfirst) h)

/-- R27: a taking shortens the queue by one. -/
theorem startEntry_queue_length {s : State} {older younger : List Entry} {x : Entry}
    (hq : s.queue = older ++ x :: younger) (hx : startable s older x = true) :
    (startEntry older x younger s).queue.length + 1 = s.queue.length := by
  rw [startEntry_queue s older younger x (lowestFree_of_startable hx), hq]
  simp only [List.length_append, List.length_cons]
  omega

/-- R27: an evaluation ends with no entry to take. -/
theorem firstStartable_evaluateUpTo (n : Nat) (s : State) (h : s.queue.length ≤ n) :
    firstStartable (evaluateUpTo n s) [] (evaluateUpTo n s).queue = none := by
  induction n generalizing s with
  | zero =>
    rw [evaluateUpTo, List.length_eq_zero_iff.mp (Nat.le_zero.mp h)]
    rfl
  | succ n ih =>
    unfold evaluateUpTo
    split
    · assumption
    · rename_i older x younger hfirst
      have hlength := startEntry_queue_length (append_of_firstStartable hfirst) (startable_of_firstStartable hfirst)
      exact ih _ (by omega)

/-- Settles O25: the conditions one by one, and an evaluation long enough to take every entry. -/
theorem evaluationLeavesNothingStartable : Obligations.EvaluationLeavesNothingStartable := by
  refine ⟨startable_iff, fun s older younger x hq => ?_⟩
  have hfirst := firstStartable_evaluateUpTo s.queue.length s (Nat.le_refl _)
  rw [← evaluateStarts, hq] at hfirst
  have hx : startable (evaluateStarts s) older x = false := startable_of_firstStartable_none hfirst
  refine ⟨hx, not_forall.mp fun hall => ?_⟩
  rw [(startable_iff _ _ _).mpr hall] at hx
  cases hx

/-! ### No overtaking (R26) -/

/-- R25 (g): an entry behind one it overlaps is not startable. -/
theorem startable_of_older_overlap {s : State} {older : List Entry} {x y : Entry} (hx : x ∈ older)
    (hover : rectsOverlap x.rect.val y.rect.val = true) : startable s older y = false := by
  rw [← Bool.not_eq_true, startable_iff]
  intro hall
  have hapart : regionsApart x.rect y.rect := hall 6 x hx
  rw [(rectsOverlap_eq_false_iff _ _).mpr hapart] at hover
  cases hover

/-- R26: what an evaluation keeps of a queued entry `x` and a younger one `y` it overlaps: `y` never comes before `x`, and
waits as long as `x` does. -/
def keptInOrder (x y : Entry) (s : State) : Prop :=
  s.queue.Pairwise (fun a b => ¬ (a = y ∧ b = x)) ∧ (x ∈ s.queue → y ∈ s.queue)

theorem startEntry_keptInOrder {x y z : Entry} {s : State} {older younger : List Entry}
    (hover : rectsOverlap x.rect.val y.rect.val = true) (hq : s.queue = older ++ z :: younger)
    (hz : startable s older z = true) (h : keptInOrder x y s) : keptInOrder x y (startEntry older z younger s) := by
  obtain ⟨horder, hwaits⟩ := h
  rw [hq] at horder hwaits
  have hsub : (older ++ younger).Sublist (older ++ z :: younger) :=
    List.Sublist.append (.refl older) (List.sublist_cons_self z younger)
  rw [keptInOrder, startEntry_queue s older younger z (lowestFree_of_startable hz)]
  refine ⟨horder.sublist hsub, fun hx => ?_⟩
  have hzy : y ≠ z := by
    rintro rfl
    have hyounger : x ∉ younger := fun hmem =>
      (List.pairwise_cons.mp (List.pairwise_append.mp horder).2.1).1 x hmem ⟨rfl, rfl⟩
    have holder : x ∈ older := (List.mem_append.mp hx).resolve_right hyounger
    rw [startable_of_older_overlap holder hover] at hz
    cases hz
  simpa [hzy] using hwaits (hsub.subset hx)

/-- Settles O26: while the older entry waits, condition (g) keeps the younger one from being taken. -/
theorem noOvertaking : Obligations.NoOvertaking := by
  intro s older middle younger x y hids hq hover hx
  have hnodup : (older ++ x :: middle ++ y :: younger).Nodup := hq ▸ hids.of_map
  obtain ⟨-, hyounger, hapart⟩ := List.nodup_append.mp hnodup
  have hxmem : x ∈ older ++ x :: middle := by simp
  have hfirst : ∀ a ∈ older ++ x :: middle, a ≠ y := fun a ha => hapart a ha y List.mem_cons_self
  have hsecond : ∀ b ∈ y :: younger, b ≠ x := fun b hb => (hapart x hxmem b hb).symm
  have hstart : keptInOrder x y s := by
    refine ⟨hq ▸ List.pairwise_append.mpr ⟨?_, ?_, ?_⟩, fun _ => by rw [hq]; simp⟩
    · exact List.pairwise_of_forall_mem_list fun a ha _ _ h => hfirst a ha h.1
    · exact List.pairwise_of_forall_mem_list fun _ _ b hb h => hsecond b hb h.2
    · exact fun a ha _ _ h => hfirst a ha h.1
  exact (evaluateUpTo_induction (fun _ _ _ _ hq hz => startEntry_keptInOrder hover hq hz) _ s hstart).2 hx

/-! ### The start checks and the order of starts -/

/-- R75: with one bank ACTIVE and the other not, the ACTIVE bank is that one. -/
theorem activeBank_of_active {s : State} {bank : BankId} (h : (bankAt s bank).state = .active)
    (hother : (bankAt s (otherBank bank)).state ≠ .active) : activeBank s = some bank := by
  cases bank with
  | a => exact if_pos h
  | b => exact (if_neg hother).trans (if_pos h)

/-- R41: the FREE slot with none FREE below it is the lowest. -/
theorem lowestFree_of_first {s : State} {i : Fin 8} (h : s.slots[i] = .free)
    (hbelow : ∀ j : Fin 8, j < i → s.slots[j] ≠ .free) : lowestFree s = some i := by
  have hsorted : slotNumbers.Pairwise (· < ·) := by decide
  rw [lowestFree, List.find?_eq_some_iff_append]
  obtain ⟨before, after, hsplit⟩ := List.append_of_mem (mem_slotNumbers i)
  refine ⟨(slotIsFree_iff _).mpr h, before, after, hsplit, fun j hj => ?_⟩
  rw [hsplit] at hsorted
  have hlt : j < i := (List.pairwise_append.mp hsorted).2.2 j hj i List.mem_cons_self
  rw [Bool.not_eq_true', ← Bool.not_eq_true, slotIsFree_iff]
  exact hbelow j hlt

/-- R31: the source check from either form of its question. -/
theorem sourceUnknown_iff_shownUnknown {s : State} (r : Region) (h : PlanesLaw s) :
    sourceUnknown s r.val = true ↔ shownUnknown s r :=
  sourceUnknown_iff s r h.imageForm.shown

section
variable {s : State} {x : Entry} {bank : BankId} {m : ModeRecord} {g : Reading}

/-- R29: no mode record, no start. -/
theorem startChecks_of_modeAbsent (h : activeMode s x.mode = none) : startChecks s x = .error .modeAbsent := by
  unfold startChecks
  rw [h]
  cases activeBank s <;> rfl

/-- R30: no band, no start. -/
theorem startChecks_of_bandAbsent (hbank : activeBank s = some bank) (hmode : activeMode s x.mode = some m)
    (hreading : s.temp.reading = some g)
    (hband : bandOfReading (boundsOfBytes (bankAt s bank).contents) g.value = none) :
    startChecks s x = .error .tempRange := by
  simp only [startChecks, hbank, hmode, hreading, hband]

/-- R31: past the mode and the band the source decides. -/
theorem startChecks_of_band {band : Nat} {d : BandData} (hbank : activeBank s = some bank)
    (hmode : activeMode s x.mode = some m) (hreading : s.temp.reading = some g)
    (hband : bandOfReading (boundsOfBytes (bankAt s bank).contents) g.value = some band)
    (hdata : m.bands[band]? = some d) : startChecks s x =
      if m.unknownRow = false ∧ sourceUnknown s x.rect.val = true then .error .unknownSource
      else .ok { bank := bank, record := m, band := band, frames := d.frames } := by
  simp only [startChecks, hbank, hmode, hreading, hband, hdata]

end

/-- R32: a failed check ends the entry with its notice. -/
theorem startEntry_of_error {s : State} {x : Entry} {result : EndResult} (older younger : List Entry)
    (hfree : lowestFree s ≠ none) (h : startChecks s x = .error result) : startEntry older x younger s =
      offerNotice (.updateEnded x.id result 0 0) { s with queue := older ++ younger } := by
  obtain ⟨i, hi⟩ := Option.ne_none_iff_exists'.mp hfree
  simp only [startEntry, hi, h]

/-- Settles O27: the three checks in their order. -/
theorem failedStartChecksEndTheEntry : Obligations.FailedStartChecksEndTheEntry := by
  intro s older younger x _ hfree
  refine ⟨fun hmode => startEntry_of_error _ _ hfree (startChecks_of_modeAbsent hmode),
    fun bank m g hbank hmode hreading => ⟨fun hband =>
      startEntry_of_error _ _ hfree (startChecks_of_bandAbsent hbank hmode hreading hband), ?_⟩⟩
  intro band d hband hdata hrow hsource
  have hunknown : sourceUnknown s x.rect.val = true :=
    hsource.elim id fun ⟨hplanes, hshown⟩ => (sourceUnknown_iff_shownUnknown x.rect hplanes).mpr hshown
  refine startEntry_of_error _ _ hfree ?_
  rw [startChecks_of_band hbank hmode hreading hband hdata, if_pos ⟨hrow, hunknown⟩]

/-- R41, R43: an entry that passes the checks arms. -/
theorem startEntry_of_ok {s : State} {x : Entry} {i : Fin 8} {d : StartData} (older younger : List Entry)
    (hfree : lowestFree s = some i) (h : startChecks s x = .ok d) :
    startEntry older x younger s = arm i x d { s with queue := older ++ younger } := by
  simp only [startEntry, hfree, h]

/-- R27: an evaluation goes on from the taking of the oldest startable entry. -/
theorem evaluateStarts_of_first {s : State} {older younger : List Entry} {x : Entry} (hq : s.queue = older ++ x :: younger)
    (holder : ∀ (before after : List Entry) (y : Entry), older = before ++ y :: after → startable s before y = false)
    (hx : startable s older x = true) : evaluateStarts s = evaluateStarts (startEntry older x younger s) := by
  have hfirst : firstStartable s [] s.queue = some (older, x, younger) :=
    hq ▸ firstStartable_append s older [] younger x holder hx
  rw [evaluateStarts, ← startEntry_queue_length hq hx, evaluateUpTo, hfirst, evaluateStarts]

/-- R27: with no entry startable an evaluation changes nothing. -/
theorem evaluateStarts_of_none {s : State}
    (h : ∀ (before after : List Entry) (y : Entry), s.queue = before ++ y :: after → startable s before y = false) :
    evaluateStarts s = s := by
  have hfirst : firstStartable s [] s.queue = none := firstStartable_none s s.queue [] h
  unfold evaluateStarts
  cases s.queue.length with
  | zero => rfl
  | succ n => rw [evaluateUpTo, hfirst]

/-- Settles O28: the lowest FREE slot and the passed checks, then the first step of an evaluation. -/
theorem startableEntriesArmInOrder : Obligations.StartableEntriesArmInOrder := by
  refine ⟨?_, fun s older younger x hq holder hx => evaluateStarts_of_first hq holder hx,
    fun s h => evaluateStarts_of_none h⟩
  intro s older younger x i bank m g band d hfree hbelow hactive hother hmode hreading hband hdata hsource
  have hknown : ¬ (m.unknownRow = false ∧ sourceUnknown s x.rect.val = true) := by
    rintro ⟨hrow, hunknown⟩
    obtain hr | hs | ⟨hplanes, hshown⟩ := hsource
    · rw [hr] at hrow; cases hrow
    · rw [hs] at hunknown; cases hunknown
    · exact hshown ((sourceUnknown_iff_shownUnknown x.rect hplanes).mp hunknown)
  refine startEntry_of_ok _ _ (lowestFree_of_first hfree hbelow) ?_
  rw [startChecks_of_band (activeBank_of_active hactive hother) hmode hreading hband hdata, if_neg hknown]

end Sys2Proof.Machine
end

section
/-! What the Control Line and the quiet requests leave as it was: the Control Line changes its own state and the notices, a quiet
request nothing of the Update Queue, the Drive Table, the rails or the Pixel Loader. -/

namespace Sys2Proof.Machine

/-! ### The frame of the Control Line -/

/-- Everything but the Control Line Interface and the Notice Queue is as it was. -/
def linkFrame (s t : State) : Prop := t = { s with link := t.link, notices := t.notices }

theorem linkFrame_refl (s : State) : linkFrame s s := rfl

theorem linkFrame_trans {s t u : State} (h : linkFrame s t) (k : linkFrame t u) : linkFrame s u := by
  unfold linkFrame at *
  rw [k, h]

theorem answerEntry_linkFrame (r : Request) (st : Status) (fields : List Byte) (effect : ReplyEffect) (s : State) :
    linkFrame s (answerEntry r st fields effect s) := rfl

theorem offerNotice_linkFrame (n : Notice) (s : State) : linkFrame s (offerNotice n s) := rfl

theorem changeLineRate_linkFrame (baud : Nat) (s : State) : linkFrame s (changeLineRate baud s) := rfl

theorem queueAnswer_linkFrame (q : QueuedReply) (s : State) : linkFrame s (queueAnswer q s) := by
  obtain ⟨-, h⟩ | ⟨-, h⟩ := queueAnswer_cases q s <;> rw [h] <;> rfl

theorem openSession_linkFrame (seq : Byte) (s : State) : linkFrame s (openSession seq s) :=
  linkFrame_trans (t := { s with link := { s.link with counters := .zero, sessionOpen := true } }) rfl
    (queueAnswer_linkFrame _ _)

theorem reopenSession_linkFrame (seq : Byte) (s : State) : linkFrame s (reopenSession seq s) := by
  unfold reopenSession
  refine linkFrame_trans ?_ (queueAnswer_linkFrame _ _)
  rfl

theorem judgeHello_linkFrame (seq : Byte) (payload : List Byte) (s : State) : linkFrame s (judgeHello seq payload s) := by
  unfold judgeHello
  split
  · exact queueAnswer_linkFrame _ s
  · split
    · exact reopenSession_linkFrame seq s
    · exact openSession_linkFrame seq s

/-- R151 to R153. -/
theorem takeHello_linkFrame (seq : Byte) (retry : Bool) (payload : List Byte) (s : State) :
    linkFrame s (takeHello seq retry payload s) := by
  unfold takeHello
  split
  · exact linkFrame_refl s
  · split
    · split
      · exact queueAnswer_linkFrame _ s
      · exact judgeHello_linkFrame seq payload s
    · exact judgeHello_linkFrame seq payload s

theorem takeAsNew_linkFrame (seq code : Byte) (payload : List Byte) (s : State) :
    linkFrame s (takeAsNew seq code payload s) := by
  unfold takeAsNew answerNobuf
  split
  · rfl
  · split <;> rfl

theorem replaceCached_linkFrame (seq code : Byte) (payload : List Byte) (s : State) :
    linkFrame s (replaceCached seq code payload s) :=
  linkFrame_trans (t := { s with link := { s.link with cache := cacheRemove s.link.cache seq } }) rfl
    (takeAsNew_linkFrame seq code payload _)

theorem admitRetry_linkFrame (seq code : Byte) (payload : List Byte) (s : State) :
    linkFrame s (admitRetry seq code payload s) := by
  unfold admitRetry
  split
  · split
    · exact queueAnswer_linkFrame _ s
    · exact replaceCached_linkFrame seq code payload s
  · split
    · exact linkFrame_refl s
    · exact takeAsNew_linkFrame seq code payload s

theorem admitFresh_linkFrame (seq code : Byte) (payload : List Byte) (s : State) :
    linkFrame s (admitFresh seq code payload s) := by
  unfold admitFresh
  split
  · exact queueAnswer_linkFrame _ s
  · split
    · exact replaceCached_linkFrame seq code payload s
    · exact takeAsNew_linkFrame seq code payload s

/-- R150, R155. -/
theorem takeRequest_linkFrame (seq code : Byte) (retry : Bool) (payload : List Byte) (s : State) :
    linkFrame s (takeRequest seq code retry payload s) := by
  unfold takeRequest
  split
  · split
    · exact admitRetry_linkFrame seq code payload s
    · exact admitFresh_linkFrame seq code payload s
  · exact queueAnswer_linkFrame _ s

theorem testFrame_linkFrame (len : Nat) (held : List Byte) (low high : Byte) (s : State) :
    linkFrame s (testFrame len held low high s) := by
  unfold testFrame
  split
  · split
    · split
      · split
        · exact takeHello_linkFrame _ _ _ s
        · exact takeRequest_linkFrame _ _ _ _ s
      · rfl
    · exact linkFrame_refl s
  · rfl

/-- R147: the check of a completed frame. -/
theorem checkFrame_linkFrame (s : State) : linkFrame s (checkFrame s) := by
  unfold checkFrame
  split
  · exact linkFrame_trans (t := setReceiver .hunt s) rfl (testFrame_linkFrame _ _ _ _ _)
  · exact linkFrame_refl s

theorem huntByte_linkFrame (value : Byte) (s : State) : linkFrame s (huntByte value s) := by
  unfold huntByte
  split <;> rfl

/-- R146: a received byte. -/
theorem takeByte_linkFrame (value : Byte) (s : State) : linkFrame s (takeByte value s) := by
  unfold takeByte lengthKnown
  split
  case h_1 => exact huntByte_linkFrame value s
  case h_3 => split <;> rfl
  case h_7 => exact linkFrame_trans (checkFrame_linkFrame s) (huntByte_linkFrame value _)
  all_goals rfl

theorem settleReply_linkFrame (q : QueuedReply) (cacheable : Bool) (s : State) :
    linkFrame s (settleReply q cacheable s) := by
  unfold settleReply
  split
  · rfl
  · split <;> rfl
  · rfl

/-! ### The frame of the quiet requests -/

/-- Everything but the parameters, Pending, the banks, the Temperature Monitor, the Raster Unit, the Notice Queue and the Control
Line Interface is as it was. -/
def quietFrame (s t : State) : Prop :=
  t = { s with params := t.params, pendingPlane := t.pendingPlane, bankA := t.bankA, bankB := t.bankB, temp := t.temp,
               raster := t.raster, notices := t.notices, link := t.link }

theorem quietFrame_refl (s : State) : quietFrame s s := rfl

theorem quietFrame_trans {s t u : State} (h : quietFrame s t) (k : quietFrame t u) : quietFrame s u := by
  unfold quietFrame at *
  rw [k, h]

theorem quietFrame_of_linkFrame {s t : State} (h : linkFrame s t) : quietFrame s t := by
  unfold linkFrame quietFrame at *
  rw [h]

theorem setBank_quietFrame (bank : BankId) (v : Bank) (s : State) : quietFrame s (setBank bank v s) := by
  cases bank <;> rfl

/-- R77: the end of a slot at its bank. -/
theorem releaseBank_quietFrame (bank : BankId) (s : State) : quietFrame s (releaseBank bank s) := by
  rw [releaseBank_eq]
  cases bank <;> rfl

/-- R158: a taking of a quiet request. -/
theorem dispatch_quietFrame (code : RequestCode) {run : Request → State → State} {s : State}
    (h : ∀ r, quietFrame s (run r s)) : quietFrame s (dispatch code run s) := by
  obtain e | ⟨r, -, e⟩ := dispatch_cases code run s
  · rw [e]; exact quietFrame_refl s
  · rw [e]; exact h r

theorem reportStatus_quietFrame (r : Request) (s : State) : quietFrame s (reportStatus r s) := by
  unfold reportStatus
  split <;> rfl

theorem reportParameter_quietFrame (r : Request) (s : State) : quietFrame s (reportParameter r s) := by
  unfold reportParameter
  split <;> rfl

theorem takeRestart_quietFrame (r : Request) (s : State) : quietFrame s (takeRestart r s) := by
  unfold takeRestart
  split <;> rfl

theorem grant_quietFrame (r : Request) (s : State) : quietFrame s (grant r s) := by
  unfold grant
  split <;> rfl

theorem queryUpdate_quietFrame (r : Request) (s : State) : quietFrame s (queryUpdate r s) := by
  unfold queryUpdate
  split <;> rfl

theorem takeReadPixels_quietFrame (r : Request) (s : State) : quietFrame s (takeReadPixels r s) := by
  unfold takeReadPixels
  split <;> rfl

theorem takeJob_quietFrame (r : Request) (kind : JobKind) (s : State) : quietFrame s (takeJob r kind s) := by
  unfold takeJob
  split
  · rfl
  · split <;> rfl

theorem takeFill_quietFrame (r : Request) (s : State) : quietFrame s (takeFill r s) := by
  unfold takeFill
  split
  · rfl
  · exact takeJob_quietFrame _ _ s

theorem takeCopy_quietFrame (r : Request) (s : State) : quietFrame s (takeCopy r s) := by
  unfold takeCopy
  split
  · rfl
  · exact takeJob_quietFrame _ _ s

/-- A bank that takes a value, and an answer or a deferral. -/
theorem setBank_quietFrame_before {bank : BankId} {v : Bank} {s t : State} (h : linkFrame (setBank bank v s) t) :
    quietFrame s t :=
  quietFrame_trans (setBank_quietFrame bank v s) (quietFrame_of_linkFrame h)

theorem openBank_quietFrame (r : Request) (s : State) : quietFrame s (openBank r s) := by
  unfold openBank
  split
  · rfl
  · split
    case h_1 | h_2 | h_3 => exact setBank_quietFrame_before rfl
    all_goals rfl

theorem storeBankData_quietFrame (r : Request) (s : State) : quietFrame s (storeBankData r s) := by
  unfold storeBankData
  split
  · rfl
  · split
    case h_1 => exact setBank_quietFrame_before rfl
    all_goals rfl

theorem beginVerify_quietFrame (r : Request) (s : State) : quietFrame s (beginVerify r s) := by
  unfold beginVerify
  split
  · rfl
  · split
    case h_1 =>
      split
      · rfl
      · exact setBank_quietFrame_before rfl
    all_goals rfl

theorem activateBank_quietFrame (bank : BankId) (s : State) : quietFrame s (activateBank bank s) :=
  quietFrame_trans (setBank_quietFrame _ _ _) (setBank_quietFrame _ _ _)

theorem takeActivate_quietFrame (r : Request) (s : State) : quietFrame s (takeActivate r s) := by
  unfold takeActivate
  split
  · rfl
  · split
    case h_5 | h_6 => exact quietFrame_trans (activateBank_quietFrame _ s) rfl
    all_goals rfl

theorem eraseBank_quietFrame (r : Request) (s : State) : quietFrame s (eraseBank r s) := by
  unfold eraseBank
  split
  · rfl
  · split
    case h_2 | h_3 => exact setBank_quietFrame_before rfl
    all_goals rfl

theorem finishVerify_quietFrame (bank : BankId) (s : State) : quietFrame s (finishVerify bank s) :=
  setBank_quietFrame_before (bank := bank) (v := (verifyOutcome (bankAt s bank)).2.2) rfl

theorem ageReading_quietFrame (r : Reading) (s : State) : quietFrame s (ageReading r s) := by
  unfold ageReading
  dsimp only
  split <;> rfl

theorem sourceChanged_quietFrame (s : State) : quietFrame s (sourceChanged s) := by
  unfold sourceChanged
  dsimp only
  split <;> rfl

end Sys2Proof.Machine
end

section
/-! The law of the Update Queue and its ids (R21, R22, R24): kept by every operation that takes entries or ids away, by an accepted
update, by the opening and closing of a load session and by both resets. -/

namespace Sys2Proof.Machine

/-! ### The law kept -/

/-- The law after, if it held before. -/
def KeepsQueue (s t : State) : Prop := QueueLaw s → QueueLaw t

theorem KeepsQueue.trans {s t u : State} (h : KeepsQueue s t) (k : KeepsQueue t u) : KeepsQueue s u := k ∘ h

/-- The queue and the ids in use at most grow shorter, and the counter and the session's being OPEN stay. -/
structure QueueShrinks (s t : State) : Prop where
  queue : t.queue.Sublist s.queue
  ids : (idsInUse t).Subperm (idsInUse s)
  counter : t.idCounter = s.idCounter
  load : t.load.isSome = s.load.isSome

theorem QueueShrinks.trans {s t u : State} (h : QueueShrinks s t) (k : QueueShrinks t u) : QueueShrinks s u :=
  ⟨k.queue.trans h.queue, k.ids.trans h.ids, k.counter.trans h.counter, k.load.trans h.load⟩

theorem QueueShrinks.keeps {s t : State} (h : QueueShrinks s t) : KeepsQueue s t := by
  rintro ⟨hroom, hnodup, hrange, hcounter, hfence⟩
  refine ⟨h.queue.length_le.trans hroom, ?_, fun n hn => hrange n (h.ids.subset hn), h.counter ▸ hcounter,
    fun x hx hx' => h.load ▸ hfence x (h.queue.subset hx) hx'⟩
  obtain ⟨ids, hperm, hsub⟩ := h.ids
  exact hperm.nodup_iff.mp (hnodup.sublist hsub)

/-- Entries leave the queue, the slots as they are. -/
theorem QueueShrinks.of_sublist {s t : State} (hqueue : t.queue.Sublist s.queue) (hslots : t.slots = s.slots)
    (hcounter : t.idCounter = s.idCounter) (hload : t.load.isSome = s.load.isSome) : QueueShrinks s t := by
  refine ⟨hqueue, ?_, hcounter, hload⟩
  rw [idsInUse, idsInUse, activeUpdates_congr hslots]
  exact ((hqueue.map _).append (.refl _)).subperm

theorem QueueShrinks.of_eq {s t : State} (hqueue : t.queue = s.queue) (hslots : t.slots = s.slots)
    (hcounter : t.idCounter = s.idCounter) (hload : t.load.isSome = s.load.isSome) : QueueShrinks s t :=
  .of_sublist (by rw [hqueue]) hslots hcounter hload

theorem QueueShrinks.refl (s : State) : QueueShrinks s s := .of_eq rfl rfl rfl rfl

theorem QueueShrinks.of_quietFrame {s t : State} (h : quietFrame s t) : QueueShrinks s t := by
  unfold quietFrame at h
  rw [h]
  exact .of_eq rfl rfl rfl rfl

theorem QueueShrinks.of_linkFrame {s t : State} (h : linkFrame s t) : QueueShrinks s t :=
  .of_quietFrame (quietFrame_of_linkFrame h)

theorem QueueShrinks.foldl {ι : Type} {f : State → ι → State} (h : ∀ s i, QueueShrinks s (f s i)) (l : List ι)
    (s : State) : QueueShrinks s (l.foldl f s) := by
  induction l generalizing s with
  | nil => exact .refl s
  | cons i l ih => exact (h s i).trans (ih (f s i))

/-! ### Slots -/

/-- A slot that keeps its update's id or becomes FREE. -/
theorem setSlot_queueShrinks {i : Fin 8} {s : State} {x : Slot}
    (h : ∀ u, slotUpdate x = some u → ∃ v, slotUpdate s.slots[i] = some v ∧ v.id = u.id) :
    QueueShrinks s (setSlot i x s) := by
  refine ⟨.refl _, ?_, rfl, rfl⟩
  obtain ⟨others, hbefore, hafter⟩ := activeUpdates_setSlot i s
  have hids : ((slotUpdate x).toList ++ others).map (·.id) |>.Sublist
      (((slotUpdate s.slots[i]).toList ++ others).map (·.id)) := by
    rw [List.map_append, List.map_append]
    refine List.Sublist.append ?_ (.refl _)
    cases hx : slotUpdate x with
    | none => exact List.nil_sublist _
    | some u =>
      obtain ⟨v, hv, hid⟩ := h u hx
      rw [hv]
      simp [hid]
  have hactive : ((activeUpdates (setSlot i x s)).map (·.id)).Subperm ((activeUpdates s).map (·.id)) :=
    ((hafter x).map _).subperm.trans (hids.subperm.trans (hbefore.map _).symm.subperm)
  exact (List.Subperm.refl _).append hactive

/-- R52: a slot aborted. -/
theorem clearSlot_queueShrinks (i : Fin 8) (s : State) : QueueShrinks s (clearSlot i s) := by
  have hfree : ∀ t : State, QueueShrinks t (setSlot i .free t) := fun t => setSlot_queueShrinks fun u hu => by cases hu
  unfold clearSlot
  split
  · exact .refl s
  · exact .trans (t := withdrawLatch _ s) (.of_eq rfl rfl rfl rfl) (hfree _)
  · exact .trans (t := blurRect _ s) (.of_eq rfl rfl rfl rfl) (hfree _)

theorem releaseBank_queueShrinks (bank : BankId) (s : State) : QueueShrinks s (releaseBank bank s) :=
  .of_quietFrame (releaseBank_quietFrame bank s)

theorem abortSlot_queueShrinks (result : EndResult) (s : State) (i : Fin 8) :
    QueueShrinks s (abortSlot result s i) := by
  unfold abortSlot
  split
  · exact .refl s
  · exact (clearSlot_queueShrinks i s).trans
      (.trans (.of_linkFrame (offerNotice_linkFrame _ _)) (releaseBank_queueShrinks _ _))

theorem abortAll_queueShrinks (result : EndResult) (s : State) : QueueShrinks s (abortAll result s) :=
  .foldl (abortSlot_queueShrinks result) slotNumbers s

theorem abortIfArmed_queueShrinks (s : State) (i : Fin 8) : QueueShrinks s (abortIfArmed s i) := by
  unfold abortIfArmed
  split
  · exact .refl s
  · exact abortSlot_queueShrinks _ s i
  · exact .refl s

/-- R51: a slot completed. -/
theorem completeSlot_queueShrinks (i : Fin 8) (u : Update) (s : State) : QueueShrinks s (completeSlot i u s) := by
  unfold completeSlot
  refine .trans ?_ (releaseBank_queueShrinks _ _)
  refine .trans (t := setSlot i .free (showTarget u.rect.val s)) ?_ (.of_quietFrame rfl)
  exact .trans (t := showTarget u.rect.val s) (.of_eq rfl rfl rfl rfl) (setSlot_queueShrinks fun v hv => by cases hv)

/-- R47: a slot at a boundary. -/
theorem advanceSlot_queueShrinks (s : State) (i : Fin 8) : QueueShrinks s (advanceSlot s i) := by
  unfold advanceSlot
  split
  case h_1 => exact .refl s
  case h_2 u hi => exact setSlot_queueShrinks fun v hv => ⟨u, by rw [hi]; rfl, by cases hv; rfl⟩
  case h_3 u hi =>
    split
    · exact completeSlot_queueShrinks i u s
    · exact setSlot_queueShrinks fun v hv => ⟨u, by rw [hi]; rfl, by cases hv; rfl⟩

theorem haltedIfIdle_queueShrinks (s : State) : QueueShrinks s (haltedIfIdle s) := by
  unfold haltedIfIdle
  split <;> exact .of_eq rfl rfl rfl rfl

theorem advanceSlots_queueShrinks (s : State) : QueueShrinks s (advanceSlots s) := by
  unfold advanceSlots
  split
  · exact .foldl advanceSlot_queueShrinks slotNumbers s
  · exact (abortAll_queueShrinks _ s).trans (haltedIfIdle_queueShrinks _)
  · exact .refl s

/-! ### Starts -/

/-- R43: arming a FREE slot adds its update to the active ones. -/
theorem activeUpdates_arm {i : Fin 8} {s : State} (x : Entry) (d : StartData) (hfree : s.slots[i] = .free) :
    ∃ u, u.id = x.id ∧ (activeUpdates (arm i x d s)).Perm (u :: activeUpdates s) := by
  obtain ⟨others, hbefore, hafter⟩ := activeUpdates_setSlot i s
  rw [hfree] at hbefore
  refine ⟨armedUpdate x d (changedPixels (latchTarget x.rect.val d.record.twoLevel s) x.rect.val), rfl, ?_⟩
  rw [activeUpdates_congr (arm_slots i x d s)]
  exact (hafter _).trans (hbefore.symm.cons _)

/-- R32, R43: an entry taken to start ends, or moves to a slot with its id. -/
theorem startEntry_queueShrinks {s : State} {older younger : List Entry} {x : Entry}
    (hq : s.queue = older ++ x :: younger) : QueueShrinks s (startEntry older x younger s) := by
  have hsub : (older ++ younger).Sublist s.queue := by
    rw [hq]
    exact List.Sublist.append (.refl older) (List.sublist_cons_self x younger)
  unfold startEntry
  split
  · exact .refl s
  · rename_i i hi
    split
    · rename_i d _
      have hframe := arm_driveFrame i x d { s with queue := older ++ younger }
      refine ⟨by rw [arm_queue]; exact hsub, ?_, by rw [hframe], by rw [hframe]⟩
      obtain ⟨u, hu, hperm⟩ := activeUpdates_arm (s := { s with queue := older ++ younger }) x d (lowestFree_slot hi)
      have hactive := hperm.map (·.id)
      rw [List.map_cons, hu] at hactive
      rw [idsInUse, idsInUse, arm_queue, hq, List.map_append, List.map_append, List.map_cons]
      refine ((hactive.append_left _).trans ?_).subperm
      exact List.perm_middle.trans (List.Perm.append_right _ List.perm_middle.symm)
    · exact .of_sublist hsub rfl rfl rfl

/-- R27: an evaluation of starts. -/
theorem evaluateStarts_queueShrinks (s : State) : QueueShrinks s (evaluateStarts s) :=
  evaluateUpTo_induction (P := QueueShrinks s) (fun _ _ _ _ hq _ h => h.trans (startEntry_queueShrinks hq)) _ s (.refl s)

/-! ### Boundaries and the rails -/

theorem demandEndsInOn_queueShrinks (s : State) : QueueShrinks s (demandEndsInOn s) := by
  unfold demandEndsInOn
  dsimp only
  split <;> exact .of_eq rfl rfl rfl rfl

theorem judgeDemandEnd_queueShrinks (s : State) : QueueShrinks s (judgeDemandEnd s) := by
  unfold judgeDemandEnd
  split
  · exact demandEndsInOn_queueShrinks s
  · exact .refl s

/-- R108: a frame boundary. -/
theorem deliverBoundary_queueShrinks (s : State) : QueueShrinks s (deliverBoundary s) := by
  refine (advanceSlots_queueShrinks s).trans ((evaluateStarts_queueShrinks _).trans ?_)
  exact .trans (t := scheduleBoundary (evaluateStarts (advanceSlots s))) (.of_eq rfl rfl rfl rfl)
    (judgeDemandEnd_queueShrinks _)

/-- R98: entry into ON. -/
theorem enterOn_queueShrinks (s : State) : QueueShrinks s (enterOn s) := by
  have hon : QueueShrinks s (railsOn s) := .of_eq rfl rfl rfl rfl
  unfold enterOn
  split
  · exact hon.trans (deliverBoundary_queueShrinks _)
  · exact hon.trans (demandEndsInOn_queueShrinks _)

theorem enterRising_queueShrinks (s : State) : QueueShrinks s (enterRising s) := by
  have hrising : QueueShrinks s (railsRising s) := .of_eq rfl rfl rfl rfl
  unfold enterRising
  split
  · exact hrising.trans (enterOn_queueShrinks _)
  · exact hrising

theorem demandAppears_queueShrinks (s : State) : QueueShrinks s (demandAppears s) := by
  unfold demandAppears
  split
  case h_1 => exact enterRising_queueShrinks s
  case h_4 => exact enterOn_queueShrinks s
  all_goals exact .refl s

/-- R94: an evaluation away from a boundary. -/
theorem evaluate_queueShrinks (s : State) : QueueShrinks s (evaluate s) := by
  unfold evaluate
  split
  · exact (evaluateStarts_queueShrinks s).trans (demandAppears_queueShrinks _)
  · exact evaluateStarts_queueShrinks s

/-- An evaluation from a state with the same queue, slots, counter and session. -/
theorem evaluate_queueShrinks_after {s t : State} (h : QueueShrinks s t) : QueueShrinks s (evaluate t) :=
  h.trans (evaluate_queueShrinks t)

/-- R103: entry into FAULT. -/
theorem enterFault_queueShrinks (cause : FaultCause) (s : State) : QueueShrinks s (enterFault cause s) := by
  unfold enterFault
  refine .trans ?_ ((abortAll_queueShrinks _ _).trans (haltedIfIdle_queueShrinks _))
  exact .of_eq rfl rfl rfl rfl

theorem fastFallRequest_queueShrinks (s : State) : QueueShrinks s (fastFallRequest s) := by
  unfold fastFallRequest
  split <;> exact .of_eq rfl rfl rfl rfl

/-! ### Requests that take entries away or none -/

/-- R33: the flush. -/
theorem flushIfAsked_queueShrinks (flush : Bool) (s : State) : QueueShrinks s (flushIfAsked flush s) := by
  unfold flushIfAsked
  split
  · rw [flushQueue_eq]
    exact .of_sublist (List.nil_sublist _) rfl rfl rfl
  · exact .refl s

theorem abortUnlessOn_queueShrinks (s : State) : QueueShrinks s (abortUnlessOn s) := by
  unfold abortUnlessOn
  split
  · exact .refl s
  · exact .foldl abortIfArmed_queueShrinks slotNumbers s

theorem beginHalt_queueShrinks (flush : Bool) (s : State) : QueueShrinks s (beginHalt flush s) := by
  have hdeferred : QueueShrinks s (deferEntry .halt { s with halt := .halting }) := .of_eq rfl rfl rfl rfl
  exact hdeferred.trans ((flushIfAsked_queueShrinks flush _).trans ((fastFallRequest_queueShrinks _).trans
    ((abortUnlessOn_queueShrinks _).trans (haltedIfIdle_queueShrinks _))))

/-- R54, R57. -/
theorem takeHalt_queueShrinks (r : Request) (s : State) : QueueShrinks s (takeHalt r s) := by
  unfold takeHalt haltAgain
  split
  · exact .of_linkFrame rfl
  · split
    · exact beginHalt_queueShrinks _ s
    · exact beginHalt_queueShrinks _ s
    · exact (flushIfAsked_queueShrinks _ s).trans ((fastFallRequest_queueShrinks _).trans (.of_linkFrame rfl))

/-- R58. -/
theorem takeResume_queueShrinks (r : Request) (s : State) : QueueShrinks s (takeResume r s) := by
  unfold takeResume
  split
  · exact .of_linkFrame rfl
  · split
    · exact .of_linkFrame rfl
    · exact .of_linkFrame rfl
    · exact evaluate_queueShrinks_after (.of_eq rfl rfl rfl rfl)

/-- R34, R35. -/
theorem cancelUpdate_queueShrinks (r : Request) (s : State) : QueueShrinks s (cancelUpdate r s) := by
  unfold cancelUpdate
  split
  · exact .of_linkFrame rfl
  · split
    · exact evaluate_queueShrinks_after (.of_sublist List.filter_sublist rfl rfl rfl)
    · split <;> exact .of_linkFrame rfl

theorem setReading_queueShrinks (value : Int) (s : State) : QueueShrinks s (setReading value s) := by
  unfold setReading
  dsimp only
  split
  · exact .of_quietFrame rfl
  · exact evaluate_queueShrinks_after (.of_quietFrame rfl)

theorem reportTemperature_queueShrinks (r : Request) (s : State) : QueueShrinks s (reportTemperature r s) := by
  unfold reportTemperature
  split
  · exact .of_linkFrame rfl
  · split
    · exact .of_linkFrame rfl
    · exact .trans (.of_linkFrame (answerEntry_linkFrame r .ok [] .nothing s)) (setReading_queueShrinks _ _)

theorem limitChanged_queueShrinks (wasValid : Bool) (s : State) : QueueShrinks s (limitChanged wasValid s) := by
  unfold limitChanged
  split
  · exact .refl s
  · split
    · exact .of_quietFrame rfl
    · split
      · exact evaluate_queueShrinks s
      · exact .refl s

theorem parameterActs_queueShrinks (q : ParamId) (before s : State) : QueueShrinks s (parameterActs q before s) := by
  unfold parameterActs
  split
  · exact .of_quietFrame (sourceChanged_quietFrame s)
  · exact limitChanged_queueShrinks _ s
  · exact .refl s

/-- R177. -/
theorem setParameter_queueShrinks (r : Request) (s : State) : QueueShrinks s (setParameter r s) := by
  unfold setParameter changeParameter
  split
  · exact .of_linkFrame rfl
  · split
    · exact .of_linkFrame rfl
    · refine .trans ?_ (parameterActs_queueShrinks _ _ _)
      exact .of_quietFrame rfl

theorem clearFault_queueShrinks (r : Request) (s : State) : QueueShrinks s (clearFault r s) := by
  unfold clearFault
  split
  · exact .of_linkFrame rfl
  · split
    · exact evaluate_queueShrinks_after (.of_eq rfl rfl rfl rfl)
    · exact .of_linkFrame rfl

/-- R120: a Load Data leaves the session OPEN. -/
theorem takeLoadData_queueShrinks (r : Request) (s : State) : QueueShrinks s (takeLoadData r s) := by
  unfold takeLoadData
  split
  · exact .of_linkFrame rfl
  · split
    · exact .of_linkFrame rfl
    · rename_i hload
      exact .of_eq rfl rfl rfl (by rw [hload]; rfl)

theorem losePower_queueShrinks (s : State) : QueueShrinks s (losePower s) := by
  unfold losePower loseSettling
  split
  case h_2 =>
    split
    · split
      · exact enterFault_queueShrinks _ s
      · exact .of_eq rfl rfl rfl rfl
    · exact .refl s
  case h_3 | h_4 => exact enterFault_queueShrinks _ s
  all_goals exact .refl s

theorem fallEnds_queueShrinks (s : State) : QueueShrinks s (fallEnds s) := by
  have hoff : QueueShrinks s { s with rails := { s.rails with state := .off, fallTimer := none } } := .of_eq rfl rfl rfl rfl
  unfold fallEnds
  dsimp only
  split
  · exact hoff.trans (enterRising_queueShrinks _)
  · exact hoff

/-! ### An accepted update -/

/-- R22: a Submit Update passes its checks only with room in the queue. -/
theorem queue_room_of_submitChecks {f : SubmitFields} {s : State} {rect : Region} (h : submitChecks f s = .ok rect) :
    s.queue.length < 16 := by
  unfold submitChecks at h
  split at h
  · cases h
  · split at h
    · cases h
    · split at h
      · cases h
      · split at h
        · cases h
        · rename_i hroom
          exact Nat.lt_of_not_le hroom

/-- R21, R22, R24: an entry with a free id joins the queue and the counter moves on. -/
theorem QueueLaw.append {s : State} (h : QueueLaw s) (hroom : s.queue.length < 16) (x : Entry)
    (hid : x.id = allocateId s) (hfence : x.loadFence = s.load.isSome) :
    QueueLaw { s with queue := s.queue ++ [x], idCounter := nextId (allocateId s) } := by
  obtain ⟨-, hnodup, hrange, hcounter, hfences⟩ := h
  obtain ⟨hfree, hnew⟩ := allocateId_fresh hcounter (Nat.le_of_lt hroom)
  have hids : (idsInUse { s with queue := s.queue ++ [x], idCounter := nextId (allocateId s) }).Perm
      (allocateId s :: idsInUse s) := by
    rw [idsInUse, List.map_append, List.append_assoc, List.map_singleton, hid]
    exact List.perm_middle
  refine ⟨?_, hids.nodup_iff.mpr (List.nodup_cons.mpr ⟨hfree, hnodup⟩), fun n hn => ?_, isUpdateId_nextId hnew,
    fun y hy hy' => ?_⟩
  · rw [List.length_append, List.length_singleton]
    exact hroom
  · obtain rfl | hn := List.mem_cons.mp (hids.subset hn)
    · exact hnew
    · exact hrange n hn
  · obtain hy | hy := List.mem_append.mp hy
    · exact hfences y hy hy'
    · rw [List.mem_singleton.mp hy, hfence] at hy'
      exact hy'

/-- R14. -/
theorem submitUpdate_keepsQueue (r : Request) (s : State) : KeepsQueue s (submitUpdate r s) := by
  unfold submitUpdate
  split
  · exact (QueueShrinks.of_linkFrame (answerEntry_linkFrame _ _ _ _ s)).keeps
  · split
    · exact (QueueShrinks.of_linkFrame (answerEntry_linkFrame _ _ _ _ s)).keeps
    · rename_i f _ _ rect hchecks
      intro h
      have hjoined := h.append (queue_room_of_submitChecks hchecks) (newEntry f rect s) rfl rfl
      exact (evaluate_queueShrinks_after (.of_linkFrame (answerEntry_linkFrame _ _ _ _ _))).keeps hjoined

/-! ### The load session -/

/-- R24: with an OPEN session any load fence may stand. -/
theorem QueueLaw.of_open {s t : State} (h : QueueLaw s) (hqueue : t.queue = s.queue) (hslots : t.slots = s.slots)
    (hcounter : t.idCounter = s.idCounter) (hload : t.load.isSome = true) : QueueLaw t := by
  obtain ⟨hroom, hnodup, hrange, hid, -⟩ := h
  have hids : idsInUse t = idsInUse s := by rw [idsInUse, hqueue, activeUpdates_congr hslots, idsInUse]
  exact ⟨hqueue ▸ hroom, hids ▸ hnodup, hids ▸ hrange, hcounter ▸ hid, fun _ _ _ => hload⟩

/-- R122: with no load fence left the session may be OPEN or not. -/
theorem QueueLaw.of_cleared {s t : State} (h : QueueLaw s) (hqueue : t.queue = (clearLoadFences s).queue)
    (hslots : t.slots = s.slots) (hcounter : t.idCounter = s.idCounter) : QueueLaw t := by
  obtain ⟨hroom, hnodup, hrange, hid, -⟩ := h
  have hids : idsInUse t = idsInUse s := by
    rw [idsInUse, hqueue, activeUpdates_congr hslots, idsInUse, clearLoadFences_queue, List.map_map]
    rfl
  refine ⟨?_, hids ▸ hnodup, hids ▸ hrange, hcounter ▸ hid, fun x hx hfence => ?_⟩
  · rw [hqueue, clearLoadFences_queue, List.length_map]
    exact hroom
  · rw [hqueue, clearLoadFences_queue] at hx
    obtain ⟨y, -, rfl⟩ := List.mem_map.mp hx
    cases hfence

/-- R117, R118. -/
theorem takeLoadOpen_keepsQueue (r : Request) (s : State) : KeepsQueue s (takeLoadOpen r s) := by
  unfold takeLoadOpen
  split
  · exact (QueueShrinks.of_linkFrame (answerEntry_linkFrame _ _ _ _ s)).keeps
  · split
    · exact fun h => h.of_open rfl rfl rfl rfl
    · refine KeepsQueue.trans ?_ (evaluate_queueShrinks _).keeps
      exact fun h => h.of_cleared rfl rfl rfl

/-- R121, R122. -/
theorem takeLoadClose_keepsQueue (r : Request) (s : State) : KeepsQueue s (takeLoadClose r s) := by
  unfold takeLoadClose
  split
  · exact (QueueShrinks.of_linkFrame (answerEntry_linkFrame _ _ _ _ s)).keeps
  · split
    · exact (QueueShrinks.of_linkFrame (answerEntry_linkFrame _ _ _ _ s)).keeps
    · refine KeepsQueue.trans ?_ (evaluate_queueShrinks _).keeps
      exact fun h => h.of_cleared rfl rfl rfl

/-! ### The resets -/

/-- R52: of the slots, aborts one after another free their own. -/
theorem foldl_clearSlot_slot (l : List (Fin 8)) (s : State) (i : Fin 8) :
    (l.foldl (fun t j => clearSlot j t) s).slots[i] = if i ∈ l then .free else s.slots[i] := by
  induction l generalizing s with
  | nil => rfl
  | cons j l ih =>
    rw [List.foldl_cons, ih]
    by_cases hij : i = j
    · subst hij
      simp only [clearSlot_slot_same, List.mem_cons_self, if_true, ite_self]
    · rw [clearSlot_slot_other s hij]
      simp only [List.mem_cons, hij, false_or]

theorem slots_of_view {s t : State} (h : driveView t = driveView s) : t.slots = s.slots := congrArg DriveView.slots h

/-- R61: a Restart's aborts free every slot. -/
theorem abandonAll_slot (s : State) (i : Fin 8) : (abandonAll s).slots[i] = .free := by
  have hslots : (abandonAll s).slots = (slotNumbers.foldl (fun t j => clearSlot j t) s).slots :=
    slots_of_view (driveView_abandonAll s)
  simp only [hslots, foldl_clearSlot_slot, mem_slotNumbers, if_true]

/-- R61, R183: a Restart leaves every slot FREE. -/
theorem restartTakesEffect_slot (s : State) (i : Fin 8) : (restartTakesEffect s).slots[i] = .free := by
  have hslots : (restartTakesEffect s).slots = (abandonAll s).slots :=
    slots_of_view (driveView_restartTakesEffect s)
  rw [hslots]
  exact abandonAll_slot s i

theorem activeUpdates_of_free {s : State} (h : ∀ i : Fin 8, s.slots[i] = .free) : activeUpdates s = [] := by
  refine List.eq_nil_iff_forall_not_mem.mpr fun u hu => ?_
  obtain ⟨i, hi⟩ := mem_activeUpdates_iff.mp hu
  rw [h i] at hi
  cases hi

/-- R38: the law of a part with an empty queue, every slot FREE and the counter at 1. -/
theorem queueLaw_of_empty {s : State} (hqueue : s.queue = []) (hslots : ∀ i : Fin 8, s.slots[i] = .free)
    (hcounter : s.idCounter = 1) : QueueLaw s := by
  have hids : idsInUse s = [] := by rw [idsInUse, hqueue, activeUpdates_of_free hslots]; rfl
  refine ⟨by simp [hqueue], by simp [hids], by simp [hids], by simp [hcounter, isUpdateId], by simp [hqueue]⟩

theorem restartTakesEffect_queueLaw (s : State) : QueueLaw (restartTakesEffect s) :=
  queueLaw_of_empty (by rw [restartTakesEffect]) (restartTakesEffect_slot s) (by rw [restartTakesEffect])

/-- R144, R162, R183: what follows the last byte of a reply. -/
theorem replyEffect_keepsQueue (effect : ReplyEffect) (s : State) : KeepsQueue s (replyEffect effect s) := by
  unfold replyEffect
  split
  · exact id
  · exact ((QueueShrinks.of_linkFrame (checkFrame_linkFrame s)).trans (.of_linkFrame (changeLineRate_linkFrame _ _))).keeps
  · exact fun _ => restartTakesEffect_queueLaw s

/-! ### The commands -/

theorem holdsAfter_mono {P Q : State → Prop} {o : Host.Outcome State Fault Refusal} (h : ∀ t, P t → Q t)
    (k : holdsAfter P o) : holdsAfter Q o := by
  cases o with
  | next t => exact h t k
  | fault r => trivial
  | refused r => trivial

/-- R158: a taking keeps the law when the request does. -/
theorem dispatch_keepsQueue (code : RequestCode) {run : Request → State → State} {s : State}
    (h : ∀ r, KeepsQueue s (run r s)) : KeepsQueue s (dispatch code run s) := by
  obtain e | ⟨r, -, e⟩ := dispatch_cases code run s
  · rw [e]; exact id
  · rw [e]; exact h r

theorem dispatch_quiet_keepsQueue (code : RequestCode) {run : Request → State → State} {s : State}
    (h : ∀ r, quietFrame s (run r s)) : KeepsQueue s (dispatch code run s) :=
  (QueueShrinks.of_quietFrame (dispatch_quietFrame code h)).keeps

end Sys2Proof.Machine
end

section
/-! Every command keeps the law of the Update Queue and its ids: those of the Control Line and the quiet ones by their frame, the
others by what they do to the queue and the slots; then the step. -/

namespace Sys2Proof.Machine

/-! ### The commands of the Control Line -/

theorem execFrame_linkFrame (s : State) : holdsAfter (linkFrame s) (execFrame s) := by
  unfold execFrame
  split
  · exact checkFrame_linkFrame s
  · exact linkFrame_refl s

theorem execHello_linkFrame (s : State) : holdsAfter (linkFrame s) (execHello s) := by
  unfold execHello
  split
  · exact checkFrame_linkFrame s
  · exact linkFrame_refl s

theorem execGapTimeout_linkFrame (s : State) : holdsAfter (linkFrame s) (execGapTimeout s) := by
  unfold execGapTimeout
  split
  · split <;> rfl
  · exact linkFrame_refl s

theorem execUnknownCode_linkFrame (s : State) : holdsAfter (linkFrame s) (execUnknownCode s) := by
  unfold execUnknownCode
  split
  · exact linkFrame_refl s
  · split <;> rfl

theorem execReceivedByte_linkFrame (value : Byte) (s : State) : holdsAfter (linkFrame s) (execReceivedByte value s) := by
  unfold execReceivedByte
  split
  · split
    · rfl
    · exact takeByte_linkFrame value s
  · exact linkFrame_refl s

theorem execReplyBegin_linkFrame (s : State) : holdsAfter (linkFrame s) (execReplyBegin s) := by
  unfold execReplyBegin
  split <;> rfl

theorem execNoticeBegin_linkFrame (s : State) : holdsAfter (linkFrame s) (execNoticeBegin s) := by
  unfold execNoticeBegin
  split
  · split <;> rfl
  · exact linkFrame_refl s

theorem execNoticeSent_linkFrame (s : State) : holdsAfter (linkFrame s) (execNoticeSent s) := by
  unfold execNoticeSent
  split <;> rfl

/-! ### The quiet commands -/

theorem execVerificationComplete_quietFrame (bank : BankId) (s : State) :
    holdsAfter (quietFrame s) (execVerificationComplete bank s) := by
  unfold execVerificationComplete
  split
  · exact finishVerify_quietFrame bank s
  · exact quietFrame_refl s

theorem execConversionStart_quietFrame (s : State) : holdsAfter (quietFrame s) (execConversionStart s) := by
  unfold execConversionStart
  split <;> rfl

theorem execAgeRise_quietFrame (s : State) : holdsAfter (quietFrame s) (execAgeRise s) := by
  unfold execAgeRise
  split
  · exact quietFrame_refl s
  · exact ageReading_quietFrame _ s

theorem execReadingBecomesStale_quietFrame (s : State) : holdsAfter (quietFrame s) (execReadingBecomesStale s) := by
  unfold execReadingBecomesStale
  split
  · exact quietFrame_refl s
  · split
    · exact ageReading_quietFrame _ s
    · exact quietFrame_refl s

theorem execJobWritesPixel_quietFrame (s : State) : holdsAfter (quietFrame s) (execJobWritesPixel s) := by
  unfold execJobWritesPixel
  split
  · exact quietFrame_refl s
  · split
    · exact quietFrame_refl s
    · split <;> rfl

/-! ### The other commands -/

theorem execJobCompletion_queueShrinks (s : State) : holdsAfter (QueueShrinks s) (execJobCompletion s) := by
  unfold execJobCompletion
  split
  · exact .refl s
  · split
    · exact .refl s
    · exact evaluate_queueShrinks_after (.of_quietFrame rfl)

theorem execFrameBoundary_queueShrinks (s : State) : holdsAfter (QueueShrinks s) (execFrameBoundary s) := by
  unfold execFrameBoundary
  split
  · exact .refl s
  · exact deliverBoundary_queueShrinks s

theorem execPowerGoodAssert_queueShrinks (s : State) : holdsAfter (QueueShrinks s) (execPowerGoodAssert s) := by
  unfold execPowerGoodAssert
  split
  · exact .refl s
  · split <;> exact .of_eq rfl rfl rfl rfl

theorem execPowerGoodLoss_queueShrinks (s : State) : holdsAfter (QueueShrinks s) (execPowerGoodLoss s) := by
  have hlow : QueueShrinks s { s with powerGood := false } := .of_eq rfl rfl rfl rfl
  unfold execPowerGoodLoss
  split
  · split
    · exact hlow.trans (losePower_queueShrinks _)
    · exact hlow
  · exact .refl s

theorem execRiseTimerExpiry_queueShrinks (s : State) : holdsAfter (QueueShrinks s) (execRiseTimerExpiry s) := by
  unfold execRiseTimerExpiry
  split
  · split
    · exact .of_eq rfl rfl rfl rfl
    · exact enterFault_queueShrinks _ s
  · exact .refl s

theorem execSettleTimerExpiry_queueShrinks (s : State) : holdsAfter (QueueShrinks s) (execSettleTimerExpiry s) := by
  unfold execSettleTimerExpiry
  split
  · exact enterOn_queueShrinks s
  · exact .refl s

theorem execHoldTimerExpiry_queueShrinks (s : State) : holdsAfter (QueueShrinks s) (execHoldTimerExpiry s) := by
  unfold execHoldTimerExpiry
  split <;> exact .of_eq rfl rfl rfl rfl

theorem execFallTimerExpiry_queueShrinks (s : State) : holdsAfter (QueueShrinks s) (execFallTimerExpiry s) := by
  unfold execFallTimerExpiry
  split
  · exact fallEnds_queueShrinks s
  · exact .refl s

theorem execConversionComplete_queueShrinks (result : SensorResult) (s : State) :
    holdsAfter (QueueShrinks s) (execConversionComplete result s) := by
  unfold execConversionComplete
  split
  · split
    · refine .trans ?_ (setReading_queueShrinks _ _)
      exact .of_quietFrame rfl
    · exact .refl s
  · trivial

theorem execReplySent_keepsQueue (s : State) : holdsAfter (KeepsQueue s) (execReplySent s) := by
  unfold execReplySent
  split
  · rename_i q cacheable _
    have hsettled := QueueShrinks.of_linkFrame (settleReply_linkFrame q cacheable s)
    refine KeepsQueue.trans (hsettled.trans ?_).keeps (replyEffect_keepsQueue _ _)
    exact .of_linkFrame rfl
  · exact id
  · exact id

/-- R38: a pin reset brings the law about. -/
theorem execPinReset_keepsQueue (s : State) : holdsAfter (KeepsQueue s) (execPinReset s) :=
  fun _ => queueLaw_of_empty rfl reset_slot rfl

theorem execStartUp_queueShrinks (s : State) : holdsAfter (QueueShrinks s) (execStartUp s) := by
  unfold execStartUp
  split <;> exact .of_eq rfl rfl rfl rfl

theorem execStartUpEnd_queueShrinks (s : State) : holdsAfter (QueueShrinks s) (execStartUpEnd s) := by
  unfold execStartUpEnd
  split <;> exact .of_eq rfl rfl rfl rfl

/-! ### Every command -/

section
variable {s : State} {o : Host.Outcome State Fault Refusal}

theorem keepsQueue_of_shrinks (h : holdsAfter (QueueShrinks s) o) : holdsAfter (KeepsQueue s) o :=
  holdsAfter_mono (fun _ k => k.keeps) h

theorem keepsQueue_of_quiet (h : holdsAfter (quietFrame s) o) : holdsAfter (KeepsQueue s) o :=
  holdsAfter_mono (fun _ k => (QueueShrinks.of_quietFrame k).keeps) h

theorem keepsQueue_of_link (h : holdsAfter (linkFrame s) o) : holdsAfter (KeepsQueue s) o :=
  holdsAfter_mono (fun _ k => (QueueShrinks.of_linkFrame k).keeps) h

end

/-- R21, R22, R24: every command keeps the law. -/
theorem exec_keepsQueue (c : Instr) (s : State) : holdsAfter (KeepsQueue s) (exec c s) := by
  cases c with
  | frame => exact keepsQueue_of_link (execFrame_linkFrame s)
  | gapTimeout => exact keepsQueue_of_link (execGapTimeout_linkFrame s)
  | hello => exact keepsQueue_of_link (execHello_linkFrame s)
  | unknownCode => exact keepsQueue_of_link (execUnknownCode_linkFrame s)
  | getStatus => exact dispatch_quiet_keepsQueue _ (reportStatus_quietFrame · s)
  | getParameter => exact dispatch_quiet_keepsQueue _ (reportParameter_quietFrame · s)
  | setParameter => exact dispatch_keepsQueue _ fun r => (setParameter_queueShrinks r s).keeps
  | restart => exact dispatch_quiet_keepsQueue _ (takeRestart_quietFrame · s)
  | grantNotices => exact dispatch_quiet_keepsQueue _ (grant_quietFrame · s)
  | submitUpdate => exact dispatch_keepsQueue _ (submitUpdate_keepsQueue · s)
  | cancelUpdate => exact dispatch_keepsQueue _ fun r => (cancelUpdate_queueShrinks r s).keeps
  | queryUpdate => exact dispatch_quiet_keepsQueue _ (queryUpdate_quietFrame · s)
  | halt => exact dispatch_keepsQueue _ fun r => (takeHalt_queueShrinks r s).keeps
  | resume => exact dispatch_keepsQueue _ fun r => (takeResume_queueShrinks r s).keeps
  | bankOpen => exact dispatch_quiet_keepsQueue _ (openBank_quietFrame · s)
  | bankData => exact dispatch_quiet_keepsQueue _ (storeBankData_quietFrame · s)
  | bankVerify => exact dispatch_quiet_keepsQueue _ (beginVerify_quietFrame · s)
  | bankActivate => exact dispatch_quiet_keepsQueue _ (takeActivate_quietFrame · s)
  | bankErase => exact dispatch_quiet_keepsQueue _ (eraseBank_quietFrame · s)
  | temperatureReport => exact dispatch_keepsQueue _ fun r => (reportTemperature_queueShrinks r s).keeps
  | clearFault => exact dispatch_keepsQueue _ fun r => (clearFault_queueShrinks r s).keeps
  | loadOpen => exact dispatch_keepsQueue _ (takeLoadOpen_keepsQueue · s)
  | loadData => exact dispatch_keepsQueue _ fun r => (takeLoadData_queueShrinks r s).keeps
  | loadClose => exact dispatch_keepsQueue _ (takeLoadClose_keepsQueue · s)
  | readPixels => exact dispatch_quiet_keepsQueue _ (takeReadPixels_quietFrame · s)
  | fill => exact dispatch_quiet_keepsQueue _ (takeFill_quietFrame · s)
  | copy => exact dispatch_quiet_keepsQueue _ (takeCopy_quietFrame · s)
  | jobCompletion => exact keepsQueue_of_shrinks (execJobCompletion_queueShrinks s)
  | verificationComplete bank => exact keepsQueue_of_quiet (execVerificationComplete_quietFrame bank s)
  | frameBoundary => exact keepsQueue_of_shrinks (execFrameBoundary_queueShrinks s)
  | powerGoodAssert => exact keepsQueue_of_shrinks (execPowerGoodAssert_queueShrinks s)
  | powerGoodLoss => exact keepsQueue_of_shrinks (execPowerGoodLoss_queueShrinks s)
  | riseTimerExpiry => exact keepsQueue_of_shrinks (execRiseTimerExpiry_queueShrinks s)
  | settleTimerExpiry => exact keepsQueue_of_shrinks (execSettleTimerExpiry_queueShrinks s)
  | holdTimerExpiry => exact keepsQueue_of_shrinks (execHoldTimerExpiry_queueShrinks s)
  | fallTimerExpiry => exact keepsQueue_of_shrinks (execFallTimerExpiry_queueShrinks s)
  | conversionStart => exact keepsQueue_of_quiet (execConversionStart_quietFrame s)
  | conversionComplete result => exact keepsQueue_of_shrinks (execConversionComplete_queueShrinks result s)
  | ageRise => exact keepsQueue_of_quiet (execAgeRise_quietFrame s)
  | readingBecomesStale => exact keepsQueue_of_quiet (execReadingBecomesStale_quietFrame s)
  | replyBegin => exact keepsQueue_of_link (execReplyBegin_linkFrame s)
  | replySent => exact execReplySent_keepsQueue s
  | noticeBegin => exact keepsQueue_of_link (execNoticeBegin_linkFrame s)
  | noticeSent => exact keepsQueue_of_link (execNoticeSent_linkFrame s)
  | pinReset => exact execPinReset_keepsQueue s
  | startUp => exact keepsQueue_of_shrinks (execStartUp_queueShrinks s)
  | startUpEnd => exact keepsQueue_of_shrinks (execStartUpEnd_queueShrinks s)
  | receivedByte value => exact keepsQueue_of_link (execReceivedByte_linkFrame value s)
  | jobWritesPixel => exact keepsQueue_of_quiet (execJobWritesPixel_quietFrame s)

/-- Settles O53, command by command. -/
theorem stepKeepsTheQueueLaw : Obligations.StepKeepsTheQueueLaw := by
  intro s t hlaw hstep
  unfold step at hstep
  split at hstep
  · cases hstep
    exact hlaw
  · rename_i c rest _
    exact holdsAfter_next (exec_keepsQueue c { s with pending := rest }) hstep hlaw

end Sys2Proof.Machine
end

section
/-! Every block after a pin reset and after a Restart (R38, R60, R61, R80, R81, R92, R111, R112, R128, R129, R141, R142, R164,
R165, R174, R175, R179, R183 to R185). -/

namespace Sys2Proof.Machine

/-! ### The pin reset and start-up -/

theorem demand_of_free {s : State} (h : ∀ i : Fin 8, s.slots[i] = .free) : demand s = false := by
  rw [demand, List.any_eq_false]
  intro x hx
  obtain ⟨n, hn, rfl⟩ := Vector.mem_iff_getElem.mp (Vector.mem_toList_iff.mp hx)
  have hfree : s.slots[n] = .free := h ⟨n, hn⟩
  simp [hfree, slotIsFree]

/-- R50: no drive while the Frame Timer is stopped. -/
theorem panelDrive_of_stopped {s : State} (h : s.frameTimer = .stopped) (x y : Nat) : panelDrive s x y = none := by
  rw [panelDrive, h]

theorem execStartUp_of_resetHeld {s : State} (h : s.phase = .resetHeld) :
    execStartUp s = .next (startConversion { s with phase := .startUp }) := by
  rw [execStartUp, h]

theorem execStartUpEnd_of_startUp {s : State} (h : s.phase = .startUp) :
    execStartUpEnd s = .next (receiverAtStartUpEnd { s with phase := .running }) := by
  rw [execStartUpEnd, h]

/-- R184: the part a pin reset leaves. -/
def afterPinReset (s : State) : State :=
  { State.reset with pending := s.pending, powerGood := s.powerGood, startUps := s.startUps }

theorem afterPinReset_slot (s : State) (i : Fin 8) : (afterPinReset s).slots[i] = .free := reset_slot i

theorem bankAt_afterPinReset (s : State) (bank : BankId) : bankAt (afterPinReset s) bank = Bank.none := bankAt_reset bank

/-- Settles O4: the pin-reset values block by block, and the two steps of start-up. -/
theorem pinResetAndStartUp : Obligations.PinResetAndStartUp := by
  refine ⟨fun s => ⟨afterPinReset s, rfl, ?_⟩, fun s hs => execStartUp_of_resetHeld hs,
    fun s hs => execStartUpEnd_of_startUp hs⟩
  have hbusy : busyOutput (afterPinReset s) = false := demand_of_free (afterPinReset_slot s)
  have hdrive : ∀ x y, panelDrive (afterPinReset s) x y = none := panelDrive_of_stopped rfl
  simp only [afterPinReset_slot, bankAt_afterPinReset, hbusy, hdrive]
  simp [afterPinReset, State.reset, Bank.none, Rails.reset, Raster.reset, NoticeQueue.reset, Link.afterReset,
    LinkCounters.zero, Params.default, railEnable, frameOnLine]

/-! ### The Restart -/

/-- R81: the end of a slot makes no difference to what a Restart makes of its bank. -/
theorem restartBank_bankReleased (v : Bank) : restartBank (bankReleased v) = restartBank v := by
  unfold bankReleased
  split
  · rename_i h
    simp only [restartBank, h.1]
  · unfold restartBank
    cases v.state <;> rfl

@[simp] theorem bankAt_clearSlot (i : Fin 8) (s : State) (bank : BankId) : bankAt (clearSlot i s) bank = bankAt s bank := by
  unfold clearSlot
  split <;> cases bank <;> rfl

theorem restartBank_abandonSlot (s : State) (i : Fin 8) (bank : BankId) :
    restartBank (bankAt (abandonSlot s i) bank) = restartBank (bankAt s bank) := by
  unfold abandonSlot releaseBankSilently
  split
  · rfl
  · rename_i u _
    rw [bankAt_setBank, bankAt_clearSlot, bankAt_clearSlot]
    split
    · rename_i hb
      rw [restartBank_bankReleased, hb]
    · rfl

theorem restartBank_foldl_abandonSlot (l : List (Fin 8)) (s : State) (bank : BankId) :
    restartBank (bankAt (l.foldl abandonSlot s) bank) = restartBank (bankAt s bank) := by
  induction l generalizing s with
  | nil => rfl
  | cons i l ih => rw [List.foldl_cons, ih, restartBank_abandonSlot]

theorem restartBank_refCount (v : Bank) : (restartBank v).refCount = 0 := by
  unfold restartBank
  cases v.state <;> rfl

/-- R183: what a Restart sets and leaves, block by block; the slots' planes, the slots and the banks aside. -/
theorem restartTakesEffect_eq (s : State) : restartTakesEffect s =
    { pending := s.pending, phase := s.phase, powerGood := s.powerGood, startUps := s.startUps, params := .default,
      pendingPlane := s.pendingPlane, target := (abandonAll s).target, shown := (abandonAll s).shown, queue := [],
      idCounter := 1, slots := (abandonAll s).slots, halt := .running, bankA := restartBank s.bankA,
      bankB := restartBank s.bankB,
      temp := { reading := none, converting := true, nextStart := some Params.default.samplePeriod },
      rails := restartRails s.rails, frameTimer := .stopped, load := none, raster := .reset, notices := .reset,
      link := .afterReset .restart } := by
  have hframe := abandonAll_driveFrame s
  have ha : restartBank (abandonAll s).bankA = restartBank s.bankA := restartBank_foldl_abandonSlot slotNumbers s .a
  have hb : restartBank (abandonAll s).bankB = restartBank s.bankB := restartBank_foldl_abandonSlot slotNumbers s .b
  rw [restartTakesEffect, ha, hb]
  rw [hframe]

/-- R61, R81: a bank after a Restart, whatever slots used it. -/
theorem bankAt_restartTakesEffect (s : State) (bank : BankId) :
    bankAt (restartTakesEffect s) bank = restartBank (bankAt s bank) := by
  rw [restartTakesEffect_eq]
  cases bank <;> rfl

theorem settled_frame (q : QueuedReply) (cacheable : Bool) (s : State) :
    linkFrame s (setTransmitter .idle (settleReply q cacheable s)) :=
  linkFrame_trans (settleReply_linkFrame q cacheable s) rfl

/-- Settles O5: the Restart as one event, its banks and rails by their states. -/
theorem restartClearsTheBlocks : Obligations.RestartClearsTheBlocks := by
  intro s q cacheable htx heffect
  refine ⟨_, execReplySent_of_restart htx heffect, ?_⟩
  have hframe := settled_frame q cacheable s
  generalize setTransmitter .idle (settleReply q cacheable s) = r at hframe
  have hbank : ∀ bank, bankAt (restartTakesEffect r) bank = restartBank (bankAt s bank) := fun bank => by
    rw [bankAt_restartTakesEffect, hframe]
    cases bank <;> rfl
  have hrails : (restartTakesEffect r).rails = restartRails s.rails := by
    rw [restartTakesEffect_eq, hframe]
  have hbusy : busyOutput (restartTakesEffect r) = false := demand_of_free (restartTakesEffect_slot r)
  have hslots := restartTakesEffect_slot r
  simp only [hbank, hrails, hbusy, hslots, restartBank_refCount]
  rw [restartTakesEffect_eq, hframe]
  refine ⟨rfl, rfl, rfl, rfl, rfl, rfl, rfl, rfl, fun _ => trivial, rfl, fun bank => ⟨trivial, ?_⟩, rfl, ?_, ?_⟩
  · unfold restartBank
    cases (bankAt s bank).state <;> exact ⟨rfl, rfl, rfl⟩
  · unfold restartRails
    cases s.rails.state <;> rfl
  · simp [Raster.reset, NoticeQueue.reset, Link.afterReset, LinkCounters.zero]

end Sys2Proof.Machine
end

section
/-! The requests of the Update Queue (R14 to R19, R21 to R24, R34 to R37): the fields of each, the checks of a Submit Update in
order, and where a Cancel Update and a Query Update find their update. -/

namespace Sys2Proof.Machine

/-! ### The fields of a Submit Update -/

theorem flagOf_eq_none_iff (b : Byte) : flagOf b = none ↔ 1 < b.toNat := by
  unfold flagOf
  split
  · rename_i h; subst h; decide
  · split
    · rename_i h; subst h; decide
    · exact ⟨fun _ => by bv_omega, fun _ => rfl⟩

theorem policyOf_eq_none_iff (b : Byte) : policyOf b = none ↔ 1 < b.toNat := by
  unfold policyOf
  split
  · rename_i h; subst h; decide
  · split
    · rename_i h; subst h; decide
    · exact ⟨fun _ => by bv_omega, fun _ => rfl⟩

theorem byteField_append (pre post : List Byte) (b : Byte) : byteField (pre ++ b :: post) pre.length = b := by
  simp [byteField]

section
variable {rect : Rect} {mode policy skip notify : Byte}

/-- R15: a payload of 12 bytes is a rectangle field and four bytes. -/
theorem submitPayload_fields (hcol : rect.col < 65536) (hrow : rect.row < 65536) (hwidth : rect.width < 65536)
    (hheight : rect.height < 65536) {p : List Byte} (hp : p = rectBytes rect ++ [mode, policy, skip, notify]) :
    p.length = 12 ∧ rectField p 0 = rect ∧ byteField p 8 = mode ∧ byteField p 9 = policy ∧ byteField p 10 = skip ∧
      byteField p 11 = notify := by
  have hrect := rectField_append [] [mode, policy, skip, notify] rect hcol hrow hwidth hheight
  have hmode := byteField_append (rectBytes rect) [policy, skip, notify] mode
  have hpolicy := byteField_append (rectBytes rect ++ [mode]) [skip, notify] policy
  have hskip := byteField_append (rectBytes rect ++ [mode, policy]) [notify] skip
  have hnotify := byteField_append (rectBytes rect ++ [mode, policy, skip]) [] notify
  simp only [List.append_assoc, List.cons_append, List.nil_append, List.length_append, rectBytes_length, List.length_cons,
    List.length_nil] at hrect hmode hpolicy hskip hnotify
  subst hp
  exact ⟨by simp, hrect, hmode, hpolicy, hskip, hnotify⟩

/-- R15, R16: a field out of its range is BAD_FIELD. -/
theorem submitFields_of_badField {p : List Byte} (hlength : p.length = 12)
    (hbad : 15 < (byteField p 8).toNat ∨ policyOf (byteField p 9) = none ∨ flagOf (byteField p 10) = none ∨
      flagOf (byteField p 11) = none) : submitFields p = .error .badField := by
  unfold submitFields
  rw [if_neg (not_not.mpr hlength)]
  split
  · rfl
  · rename_i hmode
    split
    · rename_i hp hk hn
      simp [hmode, hp, hk, hn] at hbad
    · rfl

/-- R15, R16: the fields of a payload whose every field is in range. -/
theorem submitFields_of_fields {p : List Byte} {pol : Policy} {k n : Bool} (hlength : p.length = 12)
    (hmode : (byteField p 8).toNat ≤ 15) (hpolicy : policyOf (byteField p 9) = some pol)
    (hskip : flagOf (byteField p 10) = some k) (hnotify : flagOf (byteField p 11) = some n) :
    submitFields p = .ok { rect := rectField p 0, mode := (byteField p 8).toNat, policy := pol, skipUnchanged := k,
                           notifyStart := n } := by
  unfold submitFields
  rw [if_neg (not_not.mpr hlength), if_neg (Nat.not_lt.mpr hmode), hpolicy, hskip, hnotify]

end

/-! ### The checks of a Submit Update -/

section
variable {f : SubmitFields} {s : State}

/-- R15, R16: check 2. -/
theorem submitChecks_of_badRect (h : rectValid f.rect = false) : submitChecks f s = .error .badRect := by
  have hregion : regionOf f.rect = none := by simp [regionOf, h]
  rw [submitChecks, hregion]

/-- R15, R17 to R19: checks 3 to 6 on a valid rectangle. -/
theorem submitChecks_of_region {rect : Region} (h : f.rect = rect.val) : submitChecks f s =
    if activeBank s = none then .error .noWaveform
    else if activeMode s f.mode = none then .error .modeAbsent
    else if 16 ≤ s.queue.length then .error .queueFull
    else if f.policy = .refuse ∧ (overlapsSlot s rect.val = true ∨ overlapsEntry s.queue rect.val = true) then
      .error .collision
    else .ok rect := by
  rw [submitChecks, h, regionOf_val]

end

section
variable {s : State} {r : Request}

theorem exec_submitUpdate (h : takes s .submitUpdate r) : exec .submitUpdate s = .next (submitUpdate r s) :=
  congrArg Host.Outcome.next (dispatch_of_takes submitUpdate h)

/-- R15: check 1 failed. -/
theorem submitUpdate_of_fieldError {st : Status} (h : submitFields r.payload = .error st) :
    submitUpdate r s = answerEntry r st [] .nothing s := by
  rw [submitUpdate, h]

/-- R15: a later check failed. -/
theorem submitUpdate_of_checkError {f : SubmitFields} {st : Status} (hf : submitFields r.payload = .ok f)
    (h : submitChecks f s = .error st) : submitUpdate r s = answerEntry r st [] .nothing s := by
  simp only [submitUpdate, hf, h]

theorem submitUpdate_of_ok {f : SubmitFields} {rect : Region} (hf : submitFields r.payload = .ok f)
    (h : submitChecks f s = .ok rect) : submitUpdate r s = acceptUpdate r f rect s := by
  simp only [submitUpdate, hf, h]

end

/-- Settles O22: check 1 on the bytes, check 2 on the rectangle, and checks 3 to 6 in the order of their equation. -/
theorem submitUpdateChecksInOrder : Obligations.SubmitUpdateChecksInOrder := by
  intro s r htakes
  rw [exec_submitUpdate htakes]
  refine ⟨fun hlength => ?_, fun rect mode policy skip notify hp hcol hrow hwidth hheight => ?_⟩
  · rw [submitUpdate_of_fieldError (st := .badLength) (by rw [submitFields, if_pos hlength])]
  obtain ⟨hlength, hrect, hmode8, hpolicy9, hskip10, hnotify11⟩ := submitPayload_fields hcol hrow hwidth hheight hp
  refine ⟨fun hbad => ?_, fun hmode hpolicy hskip hnotify => ?_⟩
  · rw [submitUpdate_of_fieldError (submitFields_of_badField hlength ?_)]
    rwa [policyOf_eq_none_iff, flagOf_eq_none_iff, flagOf_eq_none_iff, hmode8, hpolicy9, hskip10, hnotify11]
  obtain ⟨pol, hpol⟩ := Option.ne_none_iff_exists'.mp (mt (policyOf_eq_none_iff policy).mp (Nat.not_lt.mpr hpolicy))
  obtain ⟨k, hk⟩ := Option.ne_none_iff_exists'.mp (mt (flagOf_eq_none_iff skip).mp (Nat.not_lt.mpr hskip))
  obtain ⟨n, hn⟩ := Option.ne_none_iff_exists'.mp (mt (flagOf_eq_none_iff notify).mp (Nat.not_lt.mpr hnotify))
  have hfields := submitFields_of_fields hlength (hmode8 ▸ hmode) (hpolicy9 ▸ hpol) (hskip10 ▸ hk) (hnotify11 ▸ hn)
  rw [hrect, hmode8] at hfields
  have hrefuse : policy = 1 → pol = .refuse := by
    rintro rfl
    exact (Option.some.inj hpol).symm
  refine ⟨fun hinvalid => ?_, fun hvalid => ?_⟩
  · rw [submitUpdate_of_checkError hfields (submitChecks_of_badRect hinvalid)]
  have hchecks := submitChecks_of_region (f := ⟨rect, mode.toNat, pol, k, n⟩) (s := s) (rect := ⟨rect, hvalid⟩) rfl
  refine ⟨fun hbank => ?_, fun hbank => ⟨fun habsent => ?_, fun hpresent => ⟨fun hfull => ?_, fun hroom hp1 hover => ?_⟩⟩⟩
  · rw [submitUpdate_of_checkError hfields (hchecks.trans (if_pos hbank))]
  all_goals rw [if_neg hbank] at hchecks
  · rw [submitUpdate_of_checkError hfields (hchecks.trans (if_pos habsent))]
  all_goals rw [if_neg hpresent] at hchecks
  · rw [submitUpdate_of_checkError hfields (hchecks.trans (if_pos hfull))]
  · rw [if_neg (Nat.not_le.mpr hroom), if_pos ⟨hrefuse hp1, hover⟩] at hchecks
    rw [submitUpdate_of_checkError hfields hchecks]

/-- R2: the sides and corners of a region fit their fields. -/
theorem region_fields (r : Region) : r.val.col < 65536 ∧ r.val.row < 65536 ∧ r.val.width < 65536 ∧ r.val.height < 65536 := by
  have := region_on_panel r
  omega

/-- Settles O21: every check passes, and what is accepted is what the model's accepted update is. -/
theorem submitUpdateIsAccepted : Obligations.SubmitUpdateIsAccepted := by
  intro s r rect mode policy skip notify htakes hp hmode hbank hpresent hroom hfree
  obtain ⟨hcol, hrow, hwidth, hheight⟩ := region_fields rect
  obtain ⟨hlength, hrect, hmode8, hpolicy9, hskip10, hnotify11⟩ := submitPayload_fields hcol hrow hwidth hheight hp
  have hbyte : (byteOf mode).toNat = mode := byteOf_toNat mode (by omega)
  have hfields := submitFields_of_fields hlength (by rw [hmode8, hbyte]; omega)
    (hpolicy9 ▸ policyOf_policyByte policy) (hskip10 ▸ flagOf_flagByte skip) (hnotify11 ▸ flagOf_flagByte notify)
  rw [hrect, hmode8, hbyte] at hfields
  have hcollision : ¬ (policy = .refuse ∧ (overlapsSlot s rect.val = true ∨ overlapsEntry s.queue rect.val = true)) := by
    rintro ⟨hrefuse, hover⟩
    simp [hfree hrefuse] at hover
  have hchecks := submitChecks_of_region (f := ⟨rect.val, mode, policy, skip, notify⟩) (s := s) rfl
  rw [if_neg hbank, if_neg hpresent, if_neg (Nat.not_le.mpr hroom), if_neg hcollision] at hchecks
  rw [exec_submitUpdate htakes, submitUpdate_of_ok hfields hchecks]
  rfl

end Sys2Proof.Machine
end

section
/-! Cancel Update and Query Update (R34 to R37): where an update stands, and the byte of the unmet start conditions. -/

namespace Sys2Proof.Machine

/-! ### The update id of a request -/

theorem updateIdField_of_length {p : List Byte} (h : p.length ≠ 2) : updateIdField p = .error .badLength := if_pos h

theorem updateIdField_leBytes {id : Nat} (h : id < 65536) : updateIdField (leBytes 2 id) = .ok id := by
  have hfield : fieldNat (leBytes 2 id) 0 2 = id := by simpa using fieldNat_append [] [] 2 id h
  rw [updateIdField, if_neg (by simp), hfield]

/-! ### Cancel Update -/

section
variable {s : State} {r : Request}

theorem exec_cancelUpdate (h : takes s .cancelUpdate r) : exec .cancelUpdate s = .next (cancelUpdate r s) :=
  congrArg Host.Outcome.next (dispatch_of_takes cancelUpdate h)

theorem exec_queryUpdate (h : takes s .queryUpdate r) : exec .queryUpdate s = .next (queryUpdate r s) :=
  congrArg Host.Outcome.next (dispatch_of_takes queryUpdate h)

theorem cancelUpdate_of_error {st : Status} (h : updateIdField r.payload = .error st) :
    cancelUpdate r s = answerEntry r st [] .nothing s := by
  rw [cancelUpdate, h]

theorem queryUpdate_of_error {st : Status} (h : updateIdField r.payload = .error st) :
    queryUpdate r s = answerEntry r st [] .nothing s := by
  rw [queryUpdate, h]

theorem queryUpdate_of_id {id : Nat} (h : updateIdField r.payload = .ok id) :
    queryUpdate r s = answerEntry r .ok (queryRecord s id) .nothing s := by
  rw [queryUpdate, h]

/-- R34, R35: a Cancel Update by where the update stands. -/
theorem cancelUpdate_of_id {id : Nat} (h : updateIdField r.payload = .ok id) : cancelUpdate r s =
    if id ∈ s.queue.map (·.id) then cancelEntry r id s
    else if id ∈ (activeUpdates s).map (·.id) then answerEntry r .inDrive [] .nothing s
    else answerEntry r .notFound [] .nothing s := by
  have hqueue : (s.queue.any fun x => decide (x.id = id)) = true ↔ id ∈ s.queue.map (·.id) := by simp
  have hactive : ((activeUpdates s).any fun u => decide (u.id = id)) = true ↔ id ∈ (activeUpdates s).map (·.id) := by simp
  simp only [cancelUpdate, h, hqueue, hactive]

end

/-! ### Query Update -/

/-- R190: bit 0 for (a) to bit 7 for (h). -/
theorem unmetByte_getLsbD (u : Unmet) (k : Fin 8) : (unmetByte u).getLsbD k.val = unmetBit u k := by
  have hbits : u.a.toNat + 2 * u.b.toNat + 4 * u.c.toNat + 8 * u.d.toNat + 16 * u.e.toNat + 32 * u.f.toNat +
      64 * u.g.toNat + 128 * u.h.toNat =
      Nat.bit u.a (Nat.bit u.b (Nat.bit u.c (Nat.bit u.d (Nat.bit u.e (Nat.bit u.f (Nat.bit u.g u.h.toNat)))))) := by
    simp only [Nat.bit_val]
    omega
  rw [unmetByte, byteOf, hbits, BitVec.getLsbD_ofNat, decide_eq_true k.isLt, Bool.true_and]
  match k with
  | 0 => exact Nat.testBit_bit_zero _ _
  | 1 | 2 | 3 | 4 | 5 | 6 => simp [Nat.testBit_bit_succ, unmetBit]
  | 7 => cases hh : u.h <;> simp [Nat.testBit_bit_succ, unmetBit, hh]

/-- R36: the first entry of an id is found, with the entries older than it. -/
theorem findEntry_append {older younger : List Entry} {x : Entry} (hold : ∀ y ∈ older, y.id ≠ x.id) (acc : List Entry) :
    findEntry x.id acc (older ++ x :: younger) = some (acc ++ older, x) := by
  induction older generalizing acc with
  | nil => rw [List.nil_append, findEntry, if_pos rfl, List.append_nil]
  | cons y older ih =>
    rw [List.cons_append, findEntry, if_neg (hold y List.mem_cons_self), ih fun z hz => hold z (List.mem_cons_of_mem _ hz),
      List.append_assoc, List.singleton_append]

theorem findEntry_of_not_mem {id : Nat} {es : List Entry} (h : id ∉ es.map (·.id)) (acc : List Entry) :
    findEntry id acc es = none := by
  induction es generalizing acc with
  | nil => rfl
  | cons y es ih =>
    rw [List.map_cons, List.mem_cons, not_or] at h
    rw [findEntry, if_neg (Ne.symm h.1), ih h.2]

/-- R21, R39: with distinct ids no two slots hold one id. -/
theorem slot_of_id_unique {s : State} (hnodup : ((activeUpdates s).map (·.id)).Nodup) {i j : Fin 8} {u v : Update}
    (hi : slotUpdate s.slots[i] = some u) (hj : slotUpdate s.slots[j] = some v) (hid : v.id = u.id) : j = i := by
  by_contra hji
  obtain ⟨others, hbefore, hafter⟩ := activeUpdates_setSlot i s
  rw [hi] at hbefore
  have hv : v ∈ others := (hafter .free).subset
    (mem_activeUpdates_iff.mpr ⟨j, by rw [setSlot_slot_other _ _ hji]; exact hj⟩)
  have hids := (hbefore.map (·.id)).nodup_iff.mp hnodup
  exact (List.nodup_cons.mp hids).1 (List.mem_map.mpr ⟨v, hv, hid⟩)

theorem find_slot_sound {s : State} {id : Nat} {j : Fin 8}
    (h : (slotNumbers.find? fun j => decide ((slotUpdate s.slots[j]).map (·.id) = some id)) = some j) :
    (slotUpdate s.slots[j]).map (·.id) = some id :=
  of_decide_eq_true (List.find?_some (p := fun j : Fin 8 => decide ((slotUpdate s.slots[j]).map (·.id) = some id)) h)

/-- R36: the slot a Query Update reports. -/
theorem find_slot_of_id {s : State} (hnodup : ((activeUpdates s).map (·.id)).Nodup) {i : Fin 8} {u : Update}
    (hi : slotUpdate s.slots[i] = some u) :
    (slotNumbers.find? fun j => decide ((slotUpdate s.slots[j]).map (·.id) = some u.id)) = some i := by
  have hpass : (slotNumbers.find? fun j => decide ((slotUpdate s.slots[j]).map (·.id) = some u.id)).isSome = true :=
    List.find?_isSome.mpr ⟨i, mem_slotNumbers i, by rw [hi]; exact decide_eq_true rfl⟩
  obtain ⟨j, hj⟩ := Option.isSome_iff_exists.mp hpass
  obtain ⟨v, hv, hid⟩ := Option.map_eq_some_iff.mp (find_slot_sound hj)
  rw [hj, slot_of_id_unique hnodup hi hv hid]

theorem find_slot_of_not_mem {s : State} {id : Nat} (h : id ∉ (activeUpdates s).map (·.id)) :
    (slotNumbers.find? fun j => decide ((slotUpdate s.slots[j]).map (·.id) = some id)) = none := by
  refine List.find?_eq_none.mpr fun j _ hj => h ?_
  obtain ⟨v, hv, hid⟩ := Option.map_eq_some_iff.mp (of_decide_eq_true hj)
  exact List.mem_map.mpr ⟨v, mem_activeUpdates_iff.mpr ⟨j, hv⟩, hid⟩

/-- R36, R37: the record of a queued update. -/
theorem queryRecord_of_queued {s : State} {older younger : List Entry} {x : Entry} (hq : s.queue = older ++ x :: younger)
    (hold : ∀ y ∈ older, y.id ≠ x.id) : queryRecord s x.id =
      [1, byteOf older.length, unmetByte (unmetConditions s older x), policyByte x.policy, byteOf x.mode, 0, 0, 0] := by
  have hfind : findEntry x.id [] s.queue = some (older, x) := by rw [hq]; exact findEntry_append hold []
  simp only [queryRecord, hfind]

section
variable {s : State} {i : Fin 8} {u : Update}

theorem queryRecord_of_armed (hqueue : u.id ∉ s.queue.map (·.id)) (hnodup : ((activeUpdates s).map (·.id)).Nodup)
    (hi : s.slots[i] = .armed u) : queryRecord s u.id = [2, 0, 0, 0, 0, byteOf i.val, 0, 0] := by
  have hslot := find_slot_of_id hnodup (i := i) (u := u) (by rw [hi]; rfl)
  simp only [queryRecord, findEntry_of_not_mem hqueue, hslot, hi]

theorem queryRecord_of_driving (hqueue : u.id ∉ s.queue.map (·.id)) (hnodup : ((activeUpdates s).map (·.id)).Nodup)
    (hi : s.slots[i] = .driving u) :
    queryRecord s u.id = [3, 0, 0, 0, 0, byteOf i.val, byteOf u.index, byteOf u.frames] := by
  have hslot := find_slot_of_id hnodup (i := i) (u := u) (by rw [hi]; rfl)
  simp only [queryRecord, findEntry_of_not_mem hqueue, hslot, hi]

end

theorem not_mem_idsInUse_iff {s : State} {id : Nat} :
    id ∉ idsInUse s ↔ id ∉ s.queue.map (·.id) ∧ id ∉ (activeUpdates s).map (·.id) := by
  rw [idsInUse, List.mem_append, not_or]

theorem queryRecord_of_unknown {s : State} {id : Nat} (h : id ∉ idsInUse s) : queryRecord s id = [0, 0, 0, 0, 0, 0, 0, 0] := by
  obtain ⟨hqueue, hactive⟩ := not_mem_idsInUse_iff.mp h
  simp only [queryRecord, findEntry_of_not_mem hqueue, find_slot_of_not_mem hactive]

/-- Settles O24: both requests by where the update stands. -/
theorem cancelAndQueryFindTheUpdate : Obligations.CancelAndQueryFindTheUpdate := by
  refine ⟨fun s r hlength => ⟨fun htakes => ?_, fun htakes => ?_⟩, fun s r id hp hid => ?_⟩
  · rw [exec_cancelUpdate htakes, cancelUpdate_of_error (updateIdField_of_length hlength)]
  · rw [exec_queryUpdate htakes, queryUpdate_of_error (updateIdField_of_length hlength)]
  have hfield : updateIdField r.payload = .ok id := hp ▸ updateIdField_leBytes hid
  refine ⟨fun htakes => ?_, fun htakes => ?_⟩
  · rw [exec_cancelUpdate htakes, cancelUpdate_of_id hfield]
    refine ⟨fun hqueue => ?_, fun hqueue hactive => ?_, fun hunknown => ?_⟩
    · rw [if_pos hqueue, cancelEntry]
    · rw [if_neg hqueue, if_pos hactive]
    · obtain ⟨hqueue, hactive⟩ := not_mem_idsInUse_iff.mp hunknown
      rw [if_neg hqueue, if_neg hactive]
  · rw [exec_queryUpdate htakes, queryUpdate_of_id hfield]
    refine ⟨fun older x younger hq hx hold => ?_, fun i u hnodup hu => ?_, fun hunknown => ?_⟩
    · subst hx
      refine ⟨unmetByte (unmetConditions s older x), fun k => ?_, ?_⟩
      · rw [unmetByte_getLsbD, unmetBit_iff]
      · rw [queryRecord_of_queued hq hold]
    · subst hu
      obtain ⟨-, hactive, hapart⟩ := List.nodup_append.mp hnodup
      have hqueue : slotUpdate s.slots[i] = some u → u.id ∉ s.queue.map (·.id) := fun hi hmem =>
        hapart u.id hmem u.id (List.mem_map.mpr ⟨u, mem_activeUpdates_iff.mpr ⟨i, hi⟩, rfl⟩) rfl
      refine ⟨fun hi => ?_, fun hi => ?_⟩
      · rw [queryRecord_of_armed (hqueue (by rw [hi]; rfl)) hactive hi]
      · rw [queryRecord_of_driving (hqueue (by rw [hi]; rfl)) hactive hi]
    · rw [queryRecord_of_unknown hunknown]

end Sys2Proof.Machine
end

section
/-! The band of a reading among ascending bounds (R30, R71). -/

namespace Sys2Proof.Machine

/-- R71: there is no band exactly when the reading does not reach the first bound. -/
theorem bandOfReading_eq_none_iff_first (bounds : List Int) (t : Int) :
    bandOfReading bounds t = none ↔ ∀ b, bounds[0]? = some b → t < b := by
  cases bounds with
  | nil => simp [bandOfReading]
  | cons b bounds => by_cases hb : b ≤ t <;> simp [bandOfReading, hb, not_le.mp]

/-- R71: below the first of ascending bounds there is no band. -/
theorem bandOfReading_eq_none_iff {bounds : List Int} {t : Int} (hascending : bounds.Pairwise (· < ·)) :
    bandOfReading bounds t = none ↔ ∀ b ∈ bounds, t < b := by
  rw [bandOfReading_eq_none_iff_first]
  refine ⟨fun h => ?_, fun h b hb => h b (List.mem_of_getElem? hb)⟩
  cases bounds with
  | nil => simp
  | cons b bounds =>
    have hb : t < b := h b rfl
    exact List.forall_mem_cons.mpr ⟨hb, fun c hc => hb.trans ((List.pairwise_cons.mp hascending).1 c hc)⟩

/-- R71: past a bound that the reading reaches, the band is one above its band among the bounds that follow. -/
theorem bandOfReading_cons {b : Int} {bounds : List Int} {t : Int} (hb : b ≤ t) :
    bandOfReading (b :: bounds) t = some ((bandOfReading bounds t).elim 0 (· + 1)) := by
  have hlength : ((b :: bounds).takeWhile fun c => decide (c ≤ t)).length =
      (bounds.takeWhile fun c => decide (c ≤ t)).length + 1 := by simp [hb]
  unfold bandOfReading
  rw [hlength]
  cases (bounds.takeWhile fun c => decide (c ≤ t)).length <;> rfl

/-- R30, R71: the band whose bound the reading reaches and whose successor's it does not. -/
theorem bandOfReading_eq_some_iff {bounds : List Int} {t : Int} (hascending : bounds.Pairwise (· < ·)) (i : Nat) :
    bandOfReading bounds t = some i ↔
      (∃ b, bounds[i]? = some b ∧ b ≤ t) ∧ ∀ b, bounds[i + 1]? = some b → t < b := by
  induction bounds generalizing i with
  | nil => simp [bandOfReading]
  | cons b bounds ih =>
    by_cases hb : b ≤ t
    · have hshift : ∀ k, (b :: bounds)[k + 1]? = bounds[k]? := fun k => List.getElem?_cons_succ
      rw [bandOfReading_cons hb, Option.some_inj, hshift]
      cases i with
      | zero =>
        rw [← bandOfReading_eq_none_iff_first]
        cases bandOfReading bounds t <;> simp [hb]
      | succ i =>
        rw [hshift, ← ih (List.pairwise_cons.mp hascending).2]
        cases bandOfReading bounds t <;> simp
    · have hbelow : ∀ c ∈ b :: bounds, t < c :=
        List.forall_mem_cons.mpr ⟨not_le.mp hb, fun c hc =>
          (not_le.mp hb).trans ((List.pairwise_cons.mp hascending).1 c hc)⟩
      rw [(bandOfReading_eq_none_iff hascending).mpr hbelow]
      refine ⟨fun h => (nomatch h), ?_⟩
      rintro ⟨⟨c, hc, hct⟩, -⟩
      exact absurd hct (not_le.mpr (hbelow c (List.mem_of_getElem? hc)))

/-- Settles O37: some band and no band, each by the first bound and the bounds that follow. -/
theorem bandOfAReading : Obligations.BandOfAReading := fun _ _ hascending =>
  ⟨bandOfReading_eq_some_iff hascending, bandOfReading_eq_none_iff hascending⟩

end Sys2Proof.Machine
end

section
/-! The slots after each operation of the Drive Table, slot by slot, and the frame counts an arming takes from its bank's image
(R39, R43, R47, R52, R72). -/

namespace Sys2Proof.Machine

/-! ### Demand -/

/-- R94: no demand exactly when every slot is FREE. -/
theorem demand_eq_false_iff (s : State) : demand s = false ↔ ∀ i : Fin 8, s.slots[i] = .free := by
  simp only [demand, List.any_eq_false, Bool.not_eq_true', Bool.not_eq_false, slotIsFree_iff]
  constructor
  · exact fun h i => h _ (by simp)
  · intro h x hx
    obtain ⟨n, hn, rfl⟩ := Vector.mem_iff_getElem.mp (Vector.mem_toList_iff.mp hx)
    exact h ⟨n, hn⟩

theorem demand_congr {s t : State} (h : t.slots = s.slots) : demand t = demand s := by
  rw [demand, h, demand]

theorem demand_of_slot {s : State} {i : Fin 8} (h : s.slots[i] ≠ .free) : demand s = true := by
  rw [← Bool.not_eq_false, demand_eq_false_iff]
  exact fun hall => h (hall i)

/-! ### One slot at a time -/

/-- An operation on a slot: what the slot becomes follows from what it is, and every other slot stays. -/
structure ActsOnSlot (g : Slot → Slot) (f : State → Fin 8 → State) : Prop where
  same : ∀ s i, (f s i).slots[i] = g s.slots[i]
  other : ∀ s i j, j ≠ i → (f s i).slots[j] = s.slots[j]

theorem ActsOnSlot.foldl {g : Slot → Slot} {f : State → Fin 8 → State} (h : ActsOnSlot g f) {l : List (Fin 8)}
    (hl : l.Nodup) (s : State) (i : Fin 8) : (l.foldl f s).slots[i] = if i ∈ l then g s.slots[i] else s.slots[i] := by
  induction l generalizing s with
  | nil => rfl
  | cons j l ih =>
    obtain ⟨hj, hl⟩ := List.nodup_cons.mp hl
    rw [List.foldl_cons, ih hl]
    by_cases hij : i = j
    · subst hij
      rw [if_neg hj, if_pos List.mem_cons_self, h.same]
    · rw [h.other s j i hij]
      simp only [List.mem_cons, hij, false_or]

theorem slotNumbers_nodup : slotNumbers.Nodup := by decide

/-- An operation on every slot in turn. -/
theorem ActsOnSlot.all {g : Slot → Slot} {f : State → Fin 8 → State} (h : ActsOnSlot g f) (s : State) (i : Fin 8) :
    (slotNumbers.foldl f s).slots[i] = g s.slots[i] := by
  rw [h.foldl slotNumbers_nodup, if_pos (mem_slotNumbers i)]

theorem slot_of_view {s t : State} (h : driveView t = driveView s) (i : Fin 8) : t.slots[i] = s.slots[i] := by
  simp only [slots_of_view h]

/-- R52: an abort frees its slot. -/
theorem abortSlot_actsOnSlot (result : EndResult) : ActsOnSlot (fun _ => .free) (abortSlot result) where
  same s i := (slot_of_view (driveView_abortSlot result s i) i).trans (clearSlot_slot_same i s)
  other s i j h := (slot_of_view (driveView_abortSlot result s i) j).trans (clearSlot_slot_other s h)

/-- R52: the aborts of every slot leave all of them FREE. -/
theorem abortAll_slot (result : EndResult) (s : State) (i : Fin 8) : (abortAll result s).slots[i] = .free :=
  (abortSlot_actsOnSlot result).all s i

theorem demand_abortAll (result : EndResult) (s : State) : demand (abortAll result s) = false :=
  (demand_eq_false_iff _).mpr (abortAll_slot result s)

/-- R54: a slot after the aborts of the ARMED ones. -/
def unarmedSlot : Slot → Slot
  | .free => .free
  | .armed _ => .free
  | .driving u => .driving u

theorem abortIfArmed_actsOnSlot : ActsOnSlot unarmedSlot abortIfArmed where
  same s i := by
    unfold abortIfArmed
    split
    case h_1 h => rw [h]; rfl
    case h_2 h => rw [(abortSlot_actsOnSlot .halted).same, h]; rfl
    case h_3 h => rw [h]; rfl
  other s i j h := by
    unfold abortIfArmed
    split
    · rfl
    · exact (abortSlot_actsOnSlot .halted).other s i j h
    · rfl

/-- R54: the aborts of the ARMED slots. -/
theorem abortArmed_slot (s : State) (i : Fin 8) : (abortArmed s).slots[i] = unarmedSlot s.slots[i] :=
  abortIfArmed_actsOnSlot.all s i

theorem unarmedSlot_of_not_driving {x : Slot} (h : isDriving x = false) : unarmedSlot x = .free := by
  cases x with
  | free => rfl
  | armed u => rfl
  | driving u => cases h

/-- R51: a completion frees its slot, shows Target over its rectangle and touches nothing else of the view. -/
theorem driveView_completeSlot (i : Fin 8) (u : Update) (s : State) :
    driveView (completeSlot i u s) = driveView (setSlot i .free (showTarget u.rect.val s)) := by
  simp [completeSlot]

/-- R47: a slot after a boundary in RUNNING. -/
def advancedSlot : Slot → Slot
  | .free => .free
  | .armed u => .driving { u with index := 1 }
  | .driving u => if u.index = u.frames then .free else .driving { u with index := u.index + 1 }

theorem advanceSlot_actsOnSlot : ActsOnSlot advancedSlot advanceSlot where
  same s i := by
    unfold advanceSlot
    split
    case h_1 h => rw [h]; rfl
    case h_2 u h => rw [h, setSlot_slot_same]; rfl
    case h_3 u h =>
      rw [h, advancedSlot]
      split
      · rw [slot_of_view (driveView_completeSlot i u s), setSlot_slot_same]
      · rw [setSlot_slot_same]
  other s i j hj := by
    unfold advanceSlot
    split
    · rfl
    · exact setSlot_slot_other _ _ hj
    · split
      · rename_i u _ _
        rw [slot_of_view (driveView_completeSlot i u s), setSlot_slot_other _ _ hj]
        rfl
      · exact setSlot_slot_other _ _ hj

/-! ### Starts -/

/-- R72, R74: the mode records of an image that passes the walk keep the rules. -/
theorem modeSound_of_walkImage {bytes : List Byte} {img : BankImage} (h : walkImage bytes = .ok img) {m : ModeRecord}
    (hm : m ∈ img.modes) : ∃ bandCount, modeSound bandCount m := by
  unfold walkImage at h
  split at h
  · cases h
  split at h
  · cases h
  rename_i bandCount _ _
  split at h
  · cases h
  split at h
  · cases h
  split at h
  · cases h
  rename_i hmodes
  split at h
  · cases h
    exact ⟨bandCount.toNat, (walkModes_ok _ _ _ _ _ _ hmodes).2.2.2.2 m hm⟩
  · cases h

/-- R72: a mode record read from a bank has frame counts of 1 to 255. -/
theorem frames_of_modeOfBytes {bytes : List Byte} {mode : Nat} {m : ModeRecord} (h : modeOfBytes bytes mode = some m)
    {b : BandData} (hb : b ∈ m.bands) : 1 ≤ b.frames ∧ b.frames ≤ 255 := by
  unfold modeOfBytes at h
  split at h
  · cases h
  · rename_i img himg
    obtain ⟨_, -, -, hbands⟩ := modeSound_of_walkImage himg (List.mem_of_find?_eq_some h)
    obtain ⟨hlow, hhigh, -, -⟩ := hbands b hb
    exact ⟨hlow, hhigh⟩

/-- R29, R30, R43: what an entry that passes the start checks takes: the ACTIVE bank, and a frame count of 1 to 255. -/
theorem startChecks_ok {s : State} {x : Entry} {d : StartData} (h : startChecks s x = .ok d) :
    activeBank s = some d.bank ∧ 1 ≤ d.frames ∧ d.frames ≤ 255 := by
  unfold startChecks at h
  split at h
  case h_2 => cases h
  rename_i bank m hbank hmode
  split at h
  · cases h
  split at h
  · cases h
  split at h
  · cases h
  rename_i b hb
  split at h
  · cases h
  cases h
  rw [activeMode, hbank] at hmode
  exact ⟨hbank, frames_of_modeOfBytes hmode (List.mem_of_getElem? hb)⟩

/-- R27, R43: what an evaluation may do to a slot: leave it, or arm an update with frame index 0 and a frame count of 1 to 255
into it while it is FREE. -/
def startsAt (before after : Slot) : Prop :=
  after = before ∨ before = .free ∧ ∃ u, after = .armed u ∧ slotFramesSound (.armed u)

theorem startsAt_trans {x y z : Slot} (h : startsAt x y) (k : startsAt y z) : startsAt x z := by
  obtain rfl | ⟨hx, u, hy, hu⟩ := h
  · exact k
  · obtain rfl | ⟨hfree, -⟩ := k
    · exact .inr ⟨hx, u, hy, hu⟩
    · rw [hy] at hfree; cases hfree

/-- R43: the slot an arming fills. -/
theorem arm_slot_same (i : Fin 8) (x : Entry) (d : StartData) (s : State) : (arm i x d s).slots[i] =
    .armed (armedUpdate x d (changedPixels (latchTarget x.rect.val d.record.twoLevel s) x.rect.val)) := by
  simp only [arm_slots, setSlot_slot_same]

theorem arm_slot_other {i j : Fin 8} (x : Entry) (d : StartData) (s : State) (h : j ≠ i) :
    (arm i x d s).slots[j] = s.slots[j] := by
  simp only [arm_slots, setSlot_slot_other _ _ h]

theorem startEntry_startsAt (older younger : List Entry) (x : Entry) (s : State) (j : Fin 8) :
    startsAt s.slots[j] (startEntry older x younger s).slots[j] := by
  unfold startEntry
  split
  · exact .inl rfl
  · rename_i i hi
    split
    · rename_i d hd
      by_cases hj : j = i
      · subst hj
        obtain ⟨-, hframes⟩ := startChecks_ok hd
        exact .inr ⟨lowestFree_slot hi, _, arm_slot_same _ _ _ _, rfl, hframes⟩
      · exact .inl (arm_slot_other x d { s with queue := older ++ younger } hj)
    · exact .inl rfl

/-- R27: an evaluation of starts, slot by slot. -/
theorem evaluateStarts_startsAt (s : State) (j : Fin 8) : startsAt s.slots[j] (evaluateStarts s).slots[j] :=
  evaluateUpTo_induction (P := fun t => startsAt s.slots[j] t.slots[j])
    (fun t older younger x _ _ h => startsAt_trans h (startEntry_startsAt older younger x t j)) _ s (.inl rfl)

/-- R25 (a), (b): an evaluation in another halt state than RUNNING, or with the rails in FAULT, starts nothing. -/
theorem evaluateStarts_of_barred {s : State} (h : s.halt ≠ .running ∨ s.rails.state = .fault) : evaluateStarts s = s := by
  refine evaluateStarts_of_none fun before _ y _ => ?_
  rw [← Bool.not_eq_true, startable_iff]
  intro hall
  have hhalt : s.halt = .running := hall 0
  have hrails : s.rails.state ≠ .fault := hall 1
  exact h.elim (fun hh => hh hhalt) hrails

end Sys2Proof.Machine
end

section
/-! The law of the rails, the frames, demand and the halt state (R40, R54 to R56, R93, R94, R98, R107): what it speaks of, and what a
frame boundary, an entry into RISING or ON and an evaluation of starts make of it. -/

namespace Sys2Proof.Machine

/-! ### The law and what it speaks of -/

/-- The law after, if it held before. -/
def KeepsRails (s t : State) : Prop := RailsLaw s → RailsLaw t

theorem KeepsRails.trans {s t u : State} (h : KeepsRails s t) (k : KeepsRails t u) : KeepsRails s u := k ∘ h

/-- The law without the halt state. -/
structure RailsFit (s : State) : Prop where
  items : railItemsSound s.rails
  demanded : demand s = true → s.rails.state = .rising ∨ s.rails.state = .on ∨ s.rails.state = .falling
  used : s.rails.state = .on → demand s = true
  timed : s.frameTimer ≠ .stopped ↔ s.rails.state = .on
  frames : ∀ i : Fin 8, slotFramesSound s.slots[i]
  driven : ∀ i : Fin 8, isDriving s.slots[i] = true → s.rails.state = .on

theorem railsLaw_iff (s : State) : RailsLaw s ↔
    RailsFit s ∧ (s.halt = .halting → s.rails.state = .on) ∧ (s.halt = .halted → demand s = false) := by
  constructor
  · rintro ⟨hitems, hdemand, hon, htimer, hslots, hhalting, hhalted⟩
    exact ⟨⟨hitems, hdemand, hon, htimer, fun i => (hslots i).1, fun i => (hslots i).2⟩, hhalting, hhalted⟩
  · rintro ⟨⟨hitems, hdemand, hon, htimer, hframes, hdriven⟩, hhalting, hhalted⟩
    exact ⟨hitems, hdemand, hon, htimer, fun i => ⟨hframes i, hdriven i⟩, hhalting, hhalted⟩

theorem RailsLaw.fit {s : State} (h : RailsLaw s) : RailsFit s := ((railsLaw_iff s).mp h).1

theorem RailsLaw.halting_on {s : State} (h : RailsLaw s) (hh : s.halt = .halting) : s.rails.state = .on :=
  ((railsLaw_iff s).mp h).2.1 hh

theorem RailsLaw.halted_idle {s : State} (h : RailsLaw s) (hh : s.halt = .halted) : demand s = false :=
  ((railsLaw_iff s).mp h).2.2 hh

theorem RailsFit.congr {s t : State} (h : RailsFit s) (hrails : t.rails = s.rails) (htimer : t.frameTimer = s.frameTimer)
    (hslots : t.slots = s.slots) : RailsFit t := by
  obtain ⟨hitems, hdemand, hon, htimed, hframes, hdriven⟩ := h
  have hslot : ∀ i : Fin 8, t.slots[i] = s.slots[i] := fun i => by simp only [hslots]
  refine ⟨hrails ▸ hitems, ?_, ?_, ?_, fun i => hslot i ▸ hframes i, fun i => ?_⟩
  · rwa [demand_congr hslots, hrails]
  · rwa [demand_congr hslots, hrails]
  · rwa [htimer, hrails]
  · rw [hslot, hrails]
    exact hdriven i

/-- The law speaks of the rails, the Frame Timer, the slots and the halt state alone. -/
theorem KeepsRails.of_eq {s t : State} (hrails : t.rails = s.rails) (htimer : t.frameTimer = s.frameTimer)
    (hslots : t.slots = s.slots) (hhalt : t.halt = s.halt) : KeepsRails s t := by
  intro h
  refine (railsLaw_iff t).mpr ⟨h.fit.congr hrails htimer hslots, ?_, ?_⟩
  · rw [hhalt, hrails]
    exact h.halting_on
  · rw [hhalt, demand_congr hslots]
    exact h.halted_idle

theorem KeepsRails.refl (s : State) : KeepsRails s s := id

theorem KeepsRails.of_quietFrame {s t : State} (h : quietFrame s t) : KeepsRails s t := by
  unfold quietFrame at h
  rw [h]
  exact .of_eq rfl rfl rfl rfl

theorem KeepsRails.of_linkFrame {s t : State} (h : linkFrame s t) : KeepsRails s t :=
  .of_quietFrame (quietFrame_of_linkFrame h)

/-! ### With every slot FREE -/

theorem slotFramesSound_free_of {s : State} (h : demand s = false) (i : Fin 8) : slotFramesSound s.slots[i] := by
  rw [(demand_eq_false_iff s).mp h i]
  trivial

theorem isDriving_of_idle {s : State} (h : demand s = false) (i : Fin 8) : isDriving s.slots[i] = false := by
  rw [(demand_eq_false_iff s).mp h i]
  rfl

/-- Rails that are not ON, no frames and no active slot fit. -/
theorem railsFit_of_idle {s : State} (hitems : railItemsSound s.rails) (hon : s.rails.state ≠ .on)
    (htimer : s.frameTimer = .stopped) (hdemand : demand s = false) : RailsFit s := by
  refine ⟨hitems, fun h => ?_, fun h => absurd h hon, ⟨fun h => absurd htimer h, fun h => absurd h hon⟩,
    slotFramesSound_free_of hdemand, fun i h => ?_⟩
  · rw [hdemand] at h; cases h
  · rw [isDriving_of_idle hdemand] at h; cases h

theorem railsLaw_of_idle {s : State} (hitems : railItemsSound s.rails) (hon : s.rails.state ≠ .on)
    (htimer : s.frameTimer = .stopped) (hdemand : demand s = false) (hhalt : s.halt ≠ .halting) : RailsLaw s :=
  (railsLaw_iff s).mpr ⟨railsFit_of_idle hitems hon htimer hdemand, fun h => absurd h hhalt, fun _ => hdemand⟩

/-- R56: with the end of a halt judged, the law needs of the halt state no more than that HALTED has no demand. -/
theorem haltedIfIdle_railsLaw {s : State} (h : RailsFit s) (hhalting : s.halt = .halting → demand s = true → s.rails.state = .on)
    (hhalted : s.halt = .halted → demand s = false) : RailsLaw (haltedIfIdle s) := by
  obtain ⟨hhalt, hdemand, e⟩ | ⟨hneg, e⟩ := haltedIfIdle_cases s
  · rw [e, railsLaw_iff]
    exact ⟨h.congr rfl rfl rfl, fun hh => (nomatch hh), fun _ => hdemand⟩
  · rw [e, railsLaw_iff]
    exact ⟨h, fun hh => hhalting hh (Bool.not_eq_false _ ▸ fun hd => hneg ⟨hh, hd⟩), hhalted⟩

/-! ### Frame boundaries and entry into ON -/

theorem driveFrame_rails {s t : State} (h : driveFrame s t) : t.rails = s.rails := by rw [h]

theorem driveFrame_halt {s t : State} (h : driveFrame s t) : t.halt = s.halt := by rw [h]

theorem driveFrame_frameTimer {s t : State} (h : driveFrame s t) : t.frameTimer = s.frameTimer := by rw [h]

theorem railItemsSound_falling (ms : Nat) :
    railItemsSound { Rails.reset with state := .falling, fallTimer := some ms } := by
  simp [railItemsSound, Rails.reset]

/-- R99: demand ends in ON. -/
theorem demandEndsInOn_railsLaw {s : State} (hitems : railItemsSound s.rails) (hon : s.rails.state = .on)
    (hdemand : demand s = false) (hhalt : s.halt ≠ .halting) : RailsLaw (demandEndsInOn s) := by
  unfold demandEndsInOn
  dsimp only
  split
  · exact railsLaw_of_idle (railItemsSound_falling _) (by simp) rfl hdemand hhalt
  · rename_i hslow
    have hfast : s.rails.fastFall = false := by simpa using (not_or.mp hslow).1
    refine railsLaw_of_idle ?_ (by simp) rfl hdemand hhalt
    simp_all [railItemsSound]

/-- A state whose rails are ON, at a frame boundary or about to deliver the first one. -/
structure BoundaryReady (s : State) : Prop where
  items : railItemsSound s.rails
  on : s.rails.state = .on
  frames : ∀ i : Fin 8, slotFramesSound s.slots[i]
  halted : s.halt = .halted → demand s = false

theorem RailsLaw.boundaryReady {s : State} (h : RailsLaw s) (hon : s.rails.state = .on) : BoundaryReady s :=
  ⟨h.fit.items, hon, h.fit.frames, h.halted_idle⟩

theorem slotFramesSound_advancedSlot {x : Slot} (h : slotFramesSound x) : slotFramesSound (advancedSlot x) := by
  cases x with
  | free => trivial
  | armed u =>
    obtain ⟨-, hlow, hhigh⟩ := h
    exact ⟨Nat.le_refl 1, hlow, hhigh⟩
  | driving u =>
    obtain ⟨hlow, hindex, hhigh⟩ := h
    rw [advancedSlot]
    split
    · trivial
    · exact ⟨by simp, by dsimp only; omega, hhigh⟩

/-- R56: with every slot FREE a halt ends. -/
theorem haltedIfIdle_boundaryReady {s : State} (hitems : railItemsSound s.rails) (hon : s.rails.state = .on)
    (hdemand : demand s = false) : BoundaryReady (haltedIfIdle s) ∧ (haltedIfIdle s).halt ≠ .halting := by
  obtain ⟨-, -, e⟩ | ⟨hneg, e⟩ := haltedIfIdle_cases s
  · rw [e]
    exact ⟨⟨hitems, hon, slotFramesSound_free_of hdemand, fun _ => hdemand⟩, fun hh => (nomatch hh)⟩
  · rw [e]
    exact ⟨⟨hitems, hon, slotFramesSound_free_of hdemand, fun _ => hdemand⟩, fun hh => hneg ⟨hh, hdemand⟩⟩

/-- R47, R55, R56: the slots advance or abort, and no halt waits after it. -/
theorem advanceSlots_boundaryReady {s : State} (h : BoundaryReady s) :
    BoundaryReady (advanceSlots s) ∧ (advanceSlots s).halt ≠ .halting := by
  unfold advanceSlots
  split
  case h_1 hhalt =>
    have hframe := driveFrame_foldl _ advanceSlot_driveFrame slotNumbers s
    have hrails := driveFrame_rails hframe
    have hrunning := (driveFrame_halt hframe).trans hhalt
    refine ⟨⟨by rw [hrails]; exact h.items, by rw [hrails]; exact h.on, fun i => ?_, fun hh => ?_⟩, ?_⟩
    · rw [advanceSlot_actsOnSlot.all s i]
      exact slotFramesSound_advancedSlot (h.frames i)
    · rw [hrunning] at hh; cases hh
    · rw [hrunning]; simp
  case h_2 hhalt =>
    have hrails := driveFrame_rails (abortAll_driveFrame .halted s)
    exact haltedIfIdle_boundaryReady (by rw [hrails]; exact h.items) (by rw [hrails]; exact h.on) (demand_abortAll .halted s)
  case h_3 hhalt => exact ⟨h, by rw [hhalt]; simp⟩

theorem slotFramesSound_startsAt {x y : Slot} (h : startsAt x y) (hx : slotFramesSound x) : slotFramesSound y := by
  obtain rfl | ⟨-, u, rfl, hu⟩ := h
  · exact hx
  · exact hu

/-- R25 (a): an evaluation in HALTED leaves no demand where there was none. -/
theorem demand_evaluateStarts_of_halted {s : State} (hhalt : s.halt = .halted) (h : demand s = false) :
    demand (evaluateStarts s) = false := by
  rw [evaluateStarts_of_barred (.inl (by rw [hhalt]; simp))]
  exact h

theorem evaluateStarts_boundaryReady {s : State} (h : BoundaryReady s) : BoundaryReady (evaluateStarts s) := by
  refine ⟨by rw [evaluateStarts_rails]; exact h.items, by rw [evaluateStarts_rails]; exact h.on,
    fun i => slotFramesSound_startsAt (evaluateStarts_startsAt s i) (h.frames i), fun hh => ?_⟩
  rw [evaluateStarts_halt] at hh
  exact demand_evaluateStarts_of_halted hh (h.halted hh)

/-- R94, R99: with the next boundary set, demand keeps the rails ON and its end takes them out of ON. -/
theorem judgeDemandEnd_railsLaw {s : State} (h : BoundaryReady s) (hhalt : s.halt ≠ .halting) :
    RailsLaw (judgeDemandEnd (scheduleBoundary s)) := by
  cases hdemand : demand s with
  | false =>
    rw [judgeDemandEnd, if_pos ⟨h.on, hdemand⟩]
    exact demandEndsInOn_railsLaw h.items h.on hdemand hhalt
  | true =>
    have hjudge : ¬ ((scheduleBoundary s).rails.state = .on ∧ demand (scheduleBoundary s) = false) := fun hj => by
      have hidle : demand s = false := hj.2
      rw [hdemand] at hidle; cases hidle
    rw [judgeDemandEnd, if_neg hjudge, railsLaw_iff]
    exact ⟨⟨h.items, fun _ => .inr (.inl h.on), fun _ => hdemand, ⟨fun _ => h.on, fun _ => by simp⟩, h.frames, fun _ _ => h.on⟩,
      fun hh => absurd hh hhalt, h.halted⟩

/-- R108: a frame boundary brings the law about. -/
theorem deliverBoundary_railsLaw {s : State} (h : BoundaryReady s) : RailsLaw (deliverBoundary s) := by
  obtain ⟨hready, hhalt⟩ := advanceSlots_boundaryReady h
  exact judgeDemandEnd_railsLaw (evaluateStarts_boundaryReady hready) (by rw [evaluateStarts_halt]; exact hhalt)

/-- A state with no frame running, whose demand waits for the rails. -/
structure DemandWaits (s : State) : Prop where
  frames : ∀ i : Fin 8, slotFramesSound s.slots[i]
  driven : ∀ i : Fin 8, isDriving s.slots[i] = false
  timer : s.frameTimer = .stopped
  halting : s.halt ≠ .halting
  halted : s.halt = .halted → demand s = false

theorem RailsLaw.demandWaits {s : State} (h : RailsLaw s) (hon : s.rails.state ≠ .on) : DemandWaits s := by
  refine ⟨h.fit.frames, fun i => ?_, ?_, fun hh => hon (h.halting_on hh), h.halted_idle⟩
  · rw [← Bool.not_eq_true]
    exact fun hd => hon (h.fit.driven i hd)
  · exact not_not.mp fun ht => hon (h.fit.timed.mp ht)

/-- Rails that rise or fall for a demand that waits. -/
theorem DemandWaits.railsLaw {s : State} (h : DemandWaits s) (hitems : railItemsSound s.rails)
    (hstate : s.rails.state = .rising ∨ s.rails.state = .falling) : RailsLaw s := by
  have hon : s.rails.state ≠ .on := by obtain e | e := hstate <;> rw [e] <;> simp
  refine (railsLaw_iff s).mpr ⟨⟨hitems, fun _ => hstate.imp_right .inr, fun e => absurd e hon,
    ⟨fun ht => absurd h.timer ht, fun e => absurd e hon⟩, h.frames, fun i hd => ?_⟩, fun hh => absurd hh h.halting, h.halted⟩
  rw [h.driven] at hd
  cases hd

theorem railItemsSound_on (fast : Bool) : railItemsSound { Rails.reset with state := .on, fastFall := fast } := by
  simp [railItemsSound, Rails.reset]

/-- R98: entry into ON. -/
theorem enterOn_railsLaw {s : State} (h : DemandWaits s) : RailsLaw (enterOn s) := by
  unfold enterOn
  split
  · exact deliverBoundary_railsLaw ⟨railItemsSound_on _, rfl, h.frames, h.halted⟩
  · rename_i hdemand
    exact demandEndsInOn_railsLaw (railItemsSound_on _) rfl (Bool.not_eq_true _ ▸ hdemand) h.halting

/-- R96: entry into RISING. -/
theorem enterRising_railsLaw {s : State} (h : DemandWaits s) : RailsLaw (enterRising s) := by
  have hwaits : DemandWaits (railsRising s) := ⟨h.frames, h.driven, h.timer, h.halting, h.halted⟩
  unfold enterRising
  split
  · exact enterOn_railsLaw hwaits
  · refine hwaits.railsLaw ?_ (.inl rfl)
    cases hgood : s.powerGood <;> simp [railItemsSound, railsRising, Rails.reset, hgood]

/-! ### Evaluations -/

/-- R94: an evaluation from a state with demand leaves the rails as they are. -/
theorem evaluateStarts_railsFit {s : State} (h : RailsFit s) (hdemand : demand (evaluateStarts s) = demand s) :
    RailsFit (evaluateStarts s) := by
  refine ⟨?_, ?_, ?_, ?_, fun i => slotFramesSound_startsAt (evaluateStarts_startsAt s i) (h.frames i), fun i hd => ?_⟩
  · rw [evaluateStarts_rails]; exact h.items
  · rw [evaluateStarts_rails, hdemand]; exact h.demanded
  · rw [evaluateStarts_rails, hdemand]; exact h.used
  · rw [evaluateStarts_rails, evaluateStarts_frameTimer]; exact h.timed
  · rw [evaluateStarts_rails]
    obtain hsame | ⟨-, u, harmed, -⟩ := evaluateStarts_startsAt s i
    · exact h.driven i (hsame ▸ hd)
    · rw [harmed] at hd; cases hd

end Sys2Proof.Machine
end

section
/-! The law of the rails, the frames, demand and the halt state under evaluations, faults, halts, rail events and the Restart (R54 to
R58, R94 to R106, R112). -/

namespace Sys2Proof.Machine

/-- R27: an evaluation ends no demand. -/
theorem demand_of_evaluateStarts {s : State} (h : demand (evaluateStarts s) = false) : demand s = false := by
  rw [demand_eq_false_iff] at *
  intro i
  obtain hsame | ⟨hfree, -⟩ := evaluateStarts_startsAt s i
  · rw [← hsame]; exact h i
  · exact hfree

/-- R25 (a), (b), R94: a demand that an evaluation makes appear waits for rails that are neither ON nor in FAULT. -/
theorem evaluateStarts_demandWaits {s : State} (h : RailsLaw s) (hidle : demand s = false)
    (hdemand : demand (evaluateStarts s) = true) : DemandWaits (evaluateStarts s) ∧
      s.rails.state ≠ .on ∧ s.rails.state ≠ .fault := by
  have hon : s.rails.state ≠ .on := fun hon => by rw [h.fit.used hon] at hidle; cases hidle
  have hopen : ¬ (s.halt ≠ .running ∨ s.rails.state = .fault) := fun hbarred => by
    rw [evaluateStarts_of_barred hbarred, hidle] at hdemand; cases hdemand
  obtain ⟨hhalt, hfault⟩ := not_or.mp hopen
  rw [not_not] at hhalt
  have hwaits := h.demandWaits hon
  refine ⟨⟨fun i => slotFramesSound_startsAt (evaluateStarts_startsAt s i) (h.fit.frames i), fun i => ?_, ?_, ?_, ?_⟩, hon, hfault⟩
  · obtain hsame | ⟨-, u, harmed, -⟩ := evaluateStarts_startsAt s i
    · rw [hsame]; exact hwaits.driven i
    · rw [harmed]; rfl
  · rw [evaluateStarts_frameTimer]; exact hwaits.timer
  · rw [evaluateStarts_halt, hhalt]; simp
  · rw [evaluateStarts_halt, hhalt]; exact fun hh => (nomatch hh)

/-- R94, R95, R100: a demand that appears is taken by the rails. -/
theorem demandAppears_railsLaw {s : State} (h : DemandWaits s) (hitems : railItemsSound s.rails)
    (hon : s.rails.state ≠ .on) (hfault : s.rails.state ≠ .fault) : RailsLaw (demandAppears s) := by
  unfold demandAppears
  split
  case h_1 => exact enterRising_railsLaw h
  case h_2 hstate => exact h.railsLaw hitems (.inl hstate)
  case h_3 hstate => exact absurd hstate hon
  case h_4 => exact enterOn_railsLaw h
  case h_5 hstate => exact h.railsLaw hitems (.inr hstate)
  case h_6 hstate => exact absurd hstate hfault

/-- R94: an evaluation away from a boundary keeps the law. -/
theorem evaluate_keepsRails (s : State) : KeepsRails s (evaluate s) := by
  intro h
  unfold evaluate
  split
  · rename_i happears
    obtain ⟨hwaits, hon, hfault⟩ := evaluateStarts_demandWaits h happears.1 happears.2
    refine demandAppears_railsLaw hwaits ?_ ?_ ?_ <;> rw [evaluateStarts_rails]
    · exact h.fit.items
    · exact hon
    · exact hfault
  · rename_i hsteady
    have hdemand : demand (evaluateStarts s) = demand s := by
      cases hs : demand s <;> cases ht : demand (evaluateStarts s)
      · rfl
      · exact absurd ⟨hs, ht⟩ hsteady
      · rw [demand_of_evaluateStarts ht] at hs; cases hs
      · rfl
    refine (railsLaw_iff _).mpr ⟨evaluateStarts_railsFit h.fit hdemand, ?_, ?_⟩
    · rw [evaluateStarts_halt, evaluateStarts_rails]; exact h.halting_on
    · rw [evaluateStarts_halt, hdemand]; exact h.halted_idle

/-- R103: entry into FAULT brings the law about. -/
theorem enterFault_railsLaw (cause : FaultCause) (s : State) : RailsLaw (enterFault cause s) := by
  unfold enterFault
  have hframe := abortAll_driveFrame .railFault (offerNotice (.railFault cause s.rails.state)
    { s with rails := { Rails.reset with state := .fault, faultCause := some cause }, frameTimer := .stopped })
  have hdemand := demand_abortAll .railFault (offerNotice (.railFault cause s.rails.state)
    { s with rails := { Rails.reset with state := .fault, faultCause := some cause }, frameTimer := .stopped })
  have hrails := driveFrame_rails hframe
  have htimer := driveFrame_frameTimer hframe
  refine haltedIfIdle_railsLaw (railsFit_of_idle ?_ ?_ htimer hdemand) (fun _ hd => ?_) fun _ => hdemand
  · rw [hrails]; simp [railItemsSound, Rails.reset]
  · rw [hrails]; simp
  · rw [hdemand] at hd; cases hd

/-! ### Halts -/

/-- R105: a fast-fall request, whatever the halt state. -/
theorem fastFallRequest_railsFit {s : State} (h : RailsFit s) : RailsFit (fastFallRequest s) := by
  obtain ⟨hitems, hdemanded, hused, htimed, hframes, hdriven⟩ := h
  unfold fastFallRequest
  split
  case h_2 hstate | h_3 hstate =>
    refine ⟨?_, hdemanded, hused, htimed, hframes, hdriven⟩
    simp_all [railItemsSound]
  case h_4 hstate =>
    have hidle : demand s = false := by
      rw [← Bool.not_eq_true]
      intro hd
      simpa [hstate] using hdemanded hd
    have hstopped : s.frameTimer = .stopped := by simpa [hstate] using htimed
    exact railsFit_of_idle (railItemsSound_falling _) (by simp) hstopped hidle
  all_goals exact ⟨hitems, hdemanded, hused, htimed, hframes, hdriven⟩

/-- R58, R105: a fast-fall request never takes the rails into or out of ON. -/
theorem fastFallRequest_on_iff (s : State) : (fastFallRequest s).rails.state = .on ↔ s.rails.state = .on := by
  unfold fastFallRequest
  split <;> simp_all

theorem fastFallRequest_frame (s : State) : (fastFallRequest s).frameTimer = s.frameTimer ∧
    (fastFallRequest s).slots = s.slots ∧ (fastFallRequest s).halt = s.halt := by
  unfold fastFallRequest
  split <;> exact ⟨rfl, rfl, rfl⟩

theorem fastFallRequest_keepsRails (s : State) : KeepsRails s (fastFallRequest s) := by
  intro h
  obtain ⟨-, hslots, hhalt⟩ := fastFallRequest_frame s
  refine (railsLaw_iff _).mpr ⟨fastFallRequest_railsFit h.fit, ?_, ?_⟩
  · rw [hhalt, fastFallRequest_on_iff]; exact h.halting_on
  · rw [hhalt, demand_congr hslots]; exact h.halted_idle

/-- R54: a Halt's aborts: after them the rails are ON with demand, or no slot is active. -/
theorem abortUnlessOn_railsFit {s : State} (h : RailsFit s) : RailsFit (abortUnlessOn s) ∧
    (demand (abortUnlessOn s) = true → (abortUnlessOn s).rails.state = .on) := by
  unfold abortUnlessOn
  split
  · rename_i hon
    exact ⟨h, fun _ => hon⟩
  · rename_i hon
    have hframe := abortArmed_driveFrame s
    have hrails := driveFrame_rails hframe
    have hdemand : demand (abortArmed s) = false := by
      refine (demand_eq_false_iff _).mpr fun i => ?_
      rw [abortArmed_slot]
      refine unarmedSlot_of_not_driving (Bool.eq_false_iff.mpr fun hd => hon (h.driven i hd))
    have htimer : s.frameTimer = .stopped := not_not.mp fun ht => hon (h.timed.mp ht)
    refine ⟨railsFit_of_idle ?_ ?_ ((driveFrame_frameTimer hframe).trans htimer) hdemand, fun hd => ?_⟩
    · rw [hrails]; exact h.items
    · rw [hrails]; exact hon
    · rw [hdemand] at hd; cases hd

theorem abortUnlessOn_driveFrame (s : State) : driveFrame s (abortUnlessOn s) := by
  unfold abortUnlessOn
  split
  · exact driveFrame_refl s
  · exact abortArmed_driveFrame s

theorem flushIfAsked_frame (flush : Bool) (s : State) : driveFrame s (flushIfAsked flush s) ∧
    (flushIfAsked flush s).slots = s.slots := by
  unfold flushIfAsked
  split
  · exact ⟨flushQueue_driveFrame s, by rw [flushQueue_eq]⟩
  · exact ⟨driveFrame_refl s, rfl⟩

/-- R54 to R57: the flush, the fast-fall request and the aborts of a Halt, and then the end of the halt, keep the law. -/
theorem beginHalt_keepsRails (flush : Bool) (s : State) : KeepsRails s (beginHalt flush s) := by
  intro h
  unfold beginHalt
  have hdeferred : RailsFit (deferEntry .halt { s with halt := .halting }) := h.fit.congr rfl rfl rfl
  obtain ⟨hflush, hslots⟩ := flushIfAsked_frame flush (deferEntry .halt { s with halt := .halting })
  have hflushed := hdeferred.congr (driveFrame_rails hflush) (driveFrame_frameTimer hflush) hslots
  have hhalting := driveFrame_halt hflush
  generalize flushIfAsked flush (deferEntry .halt { s with halt := .halting }) = t at hflushed hhalting
  obtain ⟨hfit, hon⟩ := abortUnlessOn_railsFit (fastFallRequest_railsFit hflushed)
  refine haltedIfIdle_railsLaw hfit (fun _ => hon) fun hh => ?_
  obtain ⟨-, -, hfast⟩ := fastFallRequest_frame t
  rw [driveFrame_halt (abortUnlessOn_driveFrame _), hfast, hhalting] at hh
  cases hh

theorem haltAgain_keepsRails (r : Request) (flush : Bool) (s : State) : KeepsRails s (haltAgain r flush s) := by
  obtain ⟨hflush, hslots⟩ := flushIfAsked_frame flush s
  have hflushed : KeepsRails s (flushIfAsked flush s) :=
    .of_eq (driveFrame_rails hflush) (driveFrame_frameTimer hflush) hslots (driveFrame_halt hflush)
  exact hflushed.trans ((fastFallRequest_keepsRails _).trans (.of_linkFrame rfl))

/-- R54, R57. -/
theorem takeHalt_keepsRails (r : Request) (s : State) : KeepsRails s (takeHalt r s) := by
  unfold takeHalt
  split
  · exact .of_linkFrame rfl
  · split
    · exact beginHalt_keepsRails _ s
    · exact beginHalt_keepsRails _ s
    · exact haltAgain_keepsRails r _ s

/-- R58. -/
theorem takeResume_keepsRails (r : Request) (s : State) : KeepsRails s (takeResume r s) := by
  unfold takeResume
  split
  · exact .of_linkFrame rfl
  · split
    · exact .of_linkFrame rfl
    · exact .of_linkFrame rfl
    · refine KeepsRails.trans (t := answerEntry r .ok [] .nothing { s with halt := .running }) (fun h => ?_)
        (evaluate_keepsRails _)
      exact (railsLaw_iff _).mpr ⟨h.fit.congr rfl rfl rfl, fun hh => (nomatch hh), fun hh => (nomatch hh)⟩

/-! ### Requests that evaluate starts -/

/-- An evaluation that follows a change of neither rails, frames, slots nor halt state. -/
theorem evaluate_keepsRails_after {s t : State} (hrails : t.rails = s.rails) (htimer : t.frameTimer = s.frameTimer)
    (hslots : t.slots = s.slots) (hhalt : t.halt = s.halt) : KeepsRails s (evaluate t) :=
  (KeepsRails.of_eq hrails htimer hslots hhalt).trans (evaluate_keepsRails t)

theorem submitUpdate_keepsRails (r : Request) (s : State) : KeepsRails s (submitUpdate r s) := by
  unfold submitUpdate
  split
  · exact .of_linkFrame rfl
  · split
    · exact .of_linkFrame rfl
    · exact evaluate_keepsRails_after rfl rfl rfl rfl

theorem cancelUpdate_keepsRails (r : Request) (s : State) : KeepsRails s (cancelUpdate r s) := by
  unfold cancelUpdate
  split
  · exact .of_linkFrame rfl
  · split
    · exact evaluate_keepsRails_after rfl rfl rfl rfl
    · split <;> exact .of_linkFrame rfl

theorem setReading_keepsRails (value : Int) (s : State) : KeepsRails s (setReading value s) := by
  unfold setReading
  dsimp only
  split
  · exact .of_quietFrame rfl
  · exact evaluate_keepsRails_after rfl rfl rfl rfl

theorem reportTemperature_keepsRails (r : Request) (s : State) : KeepsRails s (reportTemperature r s) := by
  unfold reportTemperature
  split
  · exact .of_linkFrame rfl
  · split
    · exact .of_linkFrame rfl
    · exact (KeepsRails.of_linkFrame (answerEntry_linkFrame r .ok [] .nothing s)).trans (setReading_keepsRails _ _)

theorem limitChanged_keepsRails (wasValid : Bool) (s : State) : KeepsRails s (limitChanged wasValid s) := by
  unfold limitChanged
  split
  · exact .refl s
  · split
    · exact .of_quietFrame rfl
    · split
      · exact evaluate_keepsRails s
      · exact .refl s

theorem parameterActs_keepsRails (q : ParamId) (before s : State) : KeepsRails s (parameterActs q before s) := by
  unfold parameterActs
  split
  · exact .of_quietFrame (sourceChanged_quietFrame s)
  · exact limitChanged_keepsRails _ s
  · exact .refl s

/-- R177. -/
theorem setParameter_keepsRails (r : Request) (s : State) : KeepsRails s (setParameter r s) := by
  unfold setParameter changeParameter
  split
  · exact .of_linkFrame rfl
  · split
    · exact .of_linkFrame rfl
    · refine KeepsRails.trans ?_ (parameterActs_keepsRails _ _ _)
      exact .of_quietFrame rfl

/-- R106: the rails leave FAULT for OFF. -/
theorem clearFault_keepsRails (r : Request) (s : State) : KeepsRails s (clearFault r s) := by
  unfold clearFault
  split
  · exact .of_linkFrame rfl
  · split
    · rename_i hfault
      refine KeepsRails.trans (t := answerEntry r .ok [] .nothing
        { s with rails := { s.rails with state := .off, faultCause := none } }) (fun h => ?_) (evaluate_keepsRails _)
      have hidle : demand s = false := by
        rw [← Bool.not_eq_true]
        intro hd
        simpa [hfault] using h.fit.demanded hd
      have hwaits := h.demandWaits (by rw [hfault]; simp)
      refine railsLaw_of_idle ?_ (by simp) hwaits.timer hidle hwaits.halting
      have hitems := h.fit.items
      simp_all [railItemsSound]
    · exact .of_linkFrame rfl

theorem takeLoadOpen_keepsRails (r : Request) (s : State) : KeepsRails s (takeLoadOpen r s) := by
  unfold takeLoadOpen
  split
  · exact .of_linkFrame rfl
  · split
    · exact .of_eq rfl rfl rfl rfl
    · exact evaluate_keepsRails_after rfl rfl rfl rfl

theorem takeLoadData_keepsRails (r : Request) (s : State) : KeepsRails s (takeLoadData r s) := by
  unfold takeLoadData
  split
  · exact .of_linkFrame rfl
  · split <;> exact .of_eq rfl rfl rfl rfl

theorem takeLoadClose_keepsRails (r : Request) (s : State) : KeepsRails s (takeLoadClose r s) := by
  unfold takeLoadClose
  split
  · exact .of_linkFrame rfl
  · split
    · exact .of_linkFrame rfl
    · exact evaluate_keepsRails_after rfl rfl rfl rfl

/-! ### Rail events -/

/-- R97: a change of the rails within RISING. -/
theorem rising_keepsRails {s t : State} (hstate : s.rails.state = .rising) (hstate' : t.rails.state = .rising)
    (hitems : railItemsSound s.rails → railItemsSound t.rails) (htimer : t.frameTimer = s.frameTimer)
    (hslots : t.slots = s.slots) (hhalt : t.halt = s.halt) : KeepsRails s t := by
  intro h
  have hon : s.rails.state ≠ .on := by rw [hstate]; simp
  obtain ⟨hframes, hdriven, hstopped, hhalting, hhalted⟩ := h.demandWaits hon
  have hslot : ∀ i : Fin 8, t.slots[i] = s.slots[i] := fun i => by simp only [hslots]
  have hwaits : DemandWaits t := by
    refine ⟨fun i => ?_, fun i => ?_, htimer.trans hstopped, ?_, ?_⟩
    · rw [hslot]; exact hframes i
    · rw [hslot]; exact hdriven i
    · rwa [hhalt]
    · rwa [hhalt, demand_congr hslots]
  exact hwaits.railsLaw (hitems h.fit.items) (.inl hstate')

/-- R97. -/
theorem loseSettling_keepsRails {s : State} (hstate : s.rails.state = .rising) : KeepsRails s (loseSettling s) := by
  unfold loseSettling
  split
  · exact fun _ => enterFault_railsLaw _ s
  · refine rising_keepsRails hstate hstate (fun h => ?_) rfl rfl rfl
    simp_all [railItemsSound]

/-- R97, R101. -/
theorem losePower_keepsRails (s : State) : KeepsRails s (losePower s) := by
  unfold losePower
  split
  case h_2 hstate =>
    split
    · exact loseSettling_keepsRails hstate
    · exact .refl s
  case h_3 | h_4 => exact fun _ => enterFault_railsLaw _ s
  all_goals exact .refl s

/-- R102: the fall ends. -/
theorem fallEnds_keepsRails {s : State} (hstate : s.rails.state = .falling) : KeepsRails s (fallEnds s) := by
  intro h
  have hwaits := h.demandWaits (by rw [hstate]; simp)
  unfold fallEnds
  dsimp only
  split
  · exact enterRising_railsLaw ⟨hwaits.frames, hwaits.driven, hwaits.timer, hwaits.halting, hwaits.halted⟩
  · rename_i hidle
    refine railsLaw_of_idle ?_ (by simp) hwaits.timer (Bool.eq_false_iff.mpr hidle) hwaits.halting
    have hitems := h.fit.items
    simp_all [railItemsSound]

/-! ### The resets -/

theorem railItemsSound_reset : railItemsSound Rails.reset := by simp [railItemsSound, Rails.reset]

/-- R112: the rails at a Restart, OFF or FALLING with each item in its place. -/
theorem restartRails_sound {r : Rails} (h : railItemsSound r) : railItemsSound (restartRails r) ∧ (restartRails r).state ≠ .on := by
  unfold restartRails
  split
  case h_5 hstate =>
    refine ⟨?_, by simp⟩
    simp_all [railItemsSound, Rails.reset]
  case h_1 | h_6 => exact ⟨railItemsSound_reset, by simp [Rails.reset]⟩
  all_goals exact ⟨railItemsSound_falling _, by simp⟩

/-- R61, R112: a Restart keeps the law. -/
theorem restartTakesEffect_keepsRails (s : State) : KeepsRails s (restartTakesEffect s) := by
  intro h
  have hrails : (restartTakesEffect s).rails = restartRails s.rails := by
    rw [restartTakesEffect, driveFrame_rails (abandonAll_driveFrame s)]
  obtain ⟨hitems, hon⟩ := restartRails_sound h.fit.items
  refine railsLaw_of_idle ?_ ?_ (by rw [restartTakesEffect])
    ((demand_eq_false_iff _).mpr (restartTakesEffect_slot s)) (by rw [restartTakesEffect]; simp)
  · rw [hrails]; exact hitems
  · rw [hrails]; exact hon

/-- R144, R162, R183: what follows the last byte of a reply. -/
theorem replyEffect_keepsRails (effect : ReplyEffect) (s : State) : KeepsRails s (replyEffect effect s) := by
  unfold replyEffect
  split
  · exact .refl s
  · exact .of_linkFrame (linkFrame_trans (checkFrame_linkFrame s) (changeLineRate_linkFrame _ _))
  · exact restartTakesEffect_keepsRails s

end Sys2Proof.Machine
end

section
/-! Every command keeps the law of the rails, the frames, demand and the halt state: those of the Control Line and the quiet ones by
their frame, the others by what they do to the rails and the slots; then the step. -/

namespace Sys2Proof.Machine

/-! ### The events -/

theorem execJobCompletion_keepsRails (s : State) : holdsAfter (KeepsRails s) (execJobCompletion s) := by
  unfold execJobCompletion
  split
  · exact .refl s
  · split
    · exact .refl s
    · exact evaluate_keepsRails_after rfl rfl rfl rfl

/-- R107, R108: the Frame Timer delivers a boundary only while the rails are ON. -/
theorem execFrameBoundary_keepsRails (s : State) : holdsAfter (KeepsRails s) (execFrameBoundary s) := by
  unfold execFrameBoundary
  split
  · exact .refl s
  · rename_i n hrunning
    exact fun h => deliverBoundary_railsLaw (h.boundaryReady (h.fit.timed.mp (by rw [hrunning]; simp)))

theorem execPowerGoodAssert_keepsRails (s : State) : holdsAfter (KeepsRails s) (execPowerGoodAssert s) := by
  unfold execPowerGoodAssert
  split
  · exact .refl s
  · split
    · rename_i _ hstate hwaiting
      refine rising_keepsRails hstate hstate (fun h => ?_) rfl rfl rfl
      simp_all [railItemsSound, beginSettling]
    · exact .of_eq rfl rfl rfl rfl

theorem execPowerGoodLoss_keepsRails (s : State) : holdsAfter (KeepsRails s) (execPowerGoodLoss s) := by
  have hlow : KeepsRails s { s with powerGood := false } := .of_eq rfl rfl rfl rfl
  unfold execPowerGoodLoss
  split
  · split
    · exact hlow.trans (losePower_keepsRails _)
    · exact hlow
  · exact .refl s

theorem execRiseTimerExpiry_keepsRails (s : State) : holdsAfter (KeepsRails s) (execRiseTimerExpiry s) := by
  unfold execRiseTimerExpiry
  split
  · rename_i hstate htimer
    split
    · refine rising_keepsRails hstate hstate (fun h => ?_) rfl rfl rfl
      simp_all [railItemsSound]
    · exact fun _ => enterFault_railsLaw _ s
  · exact .refl s

/-- R98: the settle timer ends a rise. -/
theorem execSettleTimerExpiry_keepsRails (s : State) : holdsAfter (KeepsRails s) (execSettleTimerExpiry s) := by
  unfold execSettleTimerExpiry
  split
  · rename_i hstate _
    exact fun h => enterOn_railsLaw (h.demandWaits (by rw [hstate]; simp))
  · exact .refl s

/-- R100: the rails fall with no demand. -/
theorem execHoldTimerExpiry_keepsRails (s : State) : holdsAfter (KeepsRails s) (execHoldTimerExpiry s) := by
  unfold execHoldTimerExpiry
  split
  · rename_i hstate
    intro h
    have hwaits := h.demandWaits (by rw [hstate]; simp)
    refine DemandWaits.railsLaw ?_ (railItemsSound_falling _) (.inr rfl)
    exact ⟨hwaits.frames, hwaits.driven, hwaits.timer, hwaits.halting, hwaits.halted⟩
  · exact .refl s

theorem execFallTimerExpiry_keepsRails (s : State) : holdsAfter (KeepsRails s) (execFallTimerExpiry s) := by
  unfold execFallTimerExpiry
  split
  · exact fallEnds_keepsRails (by assumption)
  · exact .refl s

theorem execConversionComplete_keepsRails (result : SensorResult) (s : State) :
    holdsAfter (KeepsRails s) (execConversionComplete result s) := by
  unfold execConversionComplete
  split
  · split
    · refine KeepsRails.trans ?_ (setReading_keepsRails _ _)
      exact .of_quietFrame rfl
    · exact .refl s
  · trivial

theorem execReplySent_keepsRails (s : State) : holdsAfter (KeepsRails s) (execReplySent s) := by
  unfold execReplySent
  split
  · rename_i q cacheable _
    refine KeepsRails.trans (.of_linkFrame (linkFrame_trans (settleReply_linkFrame q cacheable s) ?_)) (replyEffect_keepsRails _ _)
    rfl
  · exact .refl s
  · exact .refl s

/-- R111: a pin reset brings the law about. -/
theorem execPinReset_keepsRails (s : State) : holdsAfter (KeepsRails s) (execPinReset s) :=
  fun _ => KeepsRails.of_eq (s := State.reset) rfl rfl rfl rfl railsLaw_reset

theorem execStartUp_keepsRails (s : State) : holdsAfter (KeepsRails s) (execStartUp s) := by
  unfold execStartUp
  split <;> exact .of_eq rfl rfl rfl rfl

theorem execStartUpEnd_keepsRails (s : State) : holdsAfter (KeepsRails s) (execStartUpEnd s) := by
  unfold execStartUpEnd
  split <;> exact .of_eq rfl rfl rfl rfl

/-! ### Every command -/

section
variable {s : State} {o : Host.Outcome State Fault Refusal}

theorem keepsRails_of_quiet (h : holdsAfter (quietFrame s) o) : holdsAfter (KeepsRails s) o :=
  holdsAfter_mono (fun _ k => .of_quietFrame k) h

theorem keepsRails_of_link (h : holdsAfter (linkFrame s) o) : holdsAfter (KeepsRails s) o :=
  holdsAfter_mono (fun _ k => .of_linkFrame k) h

/-- R158: a taking keeps the law when the request does. -/
theorem dispatch_keepsRails (code : RequestCode) {run : Request → State → State} (h : ∀ r, KeepsRails s (run r s)) :
    KeepsRails s (dispatch code run s) := by
  obtain e | ⟨r, -, e⟩ := dispatch_cases code run s
  · rw [e]; exact .refl s
  · rw [e]; exact h r

theorem dispatch_quiet_keepsRails (code : RequestCode) {run : Request → State → State}
    (h : ∀ r, quietFrame s (run r s)) : KeepsRails s (dispatch code run s) :=
  .of_quietFrame (dispatch_quietFrame code h)

end

/-- R40, R54 to R56, R93, R94, R98, R107: every command keeps the law. -/
theorem exec_keepsRails (c : Instr) (s : State) : holdsAfter (KeepsRails s) (exec c s) := by
  cases c with
  | frame => exact keepsRails_of_link (execFrame_linkFrame s)
  | gapTimeout => exact keepsRails_of_link (execGapTimeout_linkFrame s)
  | hello => exact keepsRails_of_link (execHello_linkFrame s)
  | unknownCode => exact keepsRails_of_link (execUnknownCode_linkFrame s)
  | getStatus => exact dispatch_quiet_keepsRails _ (reportStatus_quietFrame · s)
  | getParameter => exact dispatch_quiet_keepsRails _ (reportParameter_quietFrame · s)
  | setParameter => exact dispatch_keepsRails _ (setParameter_keepsRails · s)
  | restart => exact dispatch_quiet_keepsRails _ (takeRestart_quietFrame · s)
  | grantNotices => exact dispatch_quiet_keepsRails _ (grant_quietFrame · s)
  | submitUpdate => exact dispatch_keepsRails _ (submitUpdate_keepsRails · s)
  | cancelUpdate => exact dispatch_keepsRails _ (cancelUpdate_keepsRails · s)
  | queryUpdate => exact dispatch_quiet_keepsRails _ (queryUpdate_quietFrame · s)
  | halt => exact dispatch_keepsRails _ (takeHalt_keepsRails · s)
  | resume => exact dispatch_keepsRails _ (takeResume_keepsRails · s)
  | bankOpen => exact dispatch_quiet_keepsRails _ (openBank_quietFrame · s)
  | bankData => exact dispatch_quiet_keepsRails _ (storeBankData_quietFrame · s)
  | bankVerify => exact dispatch_quiet_keepsRails _ (beginVerify_quietFrame · s)
  | bankActivate => exact dispatch_quiet_keepsRails _ (takeActivate_quietFrame · s)
  | bankErase => exact dispatch_quiet_keepsRails _ (eraseBank_quietFrame · s)
  | temperatureReport => exact dispatch_keepsRails _ (reportTemperature_keepsRails · s)
  | clearFault => exact dispatch_keepsRails _ (clearFault_keepsRails · s)
  | loadOpen => exact dispatch_keepsRails _ (takeLoadOpen_keepsRails · s)
  | loadData => exact dispatch_keepsRails _ (takeLoadData_keepsRails · s)
  | loadClose => exact dispatch_keepsRails _ (takeLoadClose_keepsRails · s)
  | readPixels => exact dispatch_quiet_keepsRails _ (takeReadPixels_quietFrame · s)
  | fill => exact dispatch_quiet_keepsRails _ (takeFill_quietFrame · s)
  | copy => exact dispatch_quiet_keepsRails _ (takeCopy_quietFrame · s)
  | jobCompletion => exact execJobCompletion_keepsRails s
  | verificationComplete bank => exact keepsRails_of_quiet (execVerificationComplete_quietFrame bank s)
  | frameBoundary => exact execFrameBoundary_keepsRails s
  | powerGoodAssert => exact execPowerGoodAssert_keepsRails s
  | powerGoodLoss => exact execPowerGoodLoss_keepsRails s
  | riseTimerExpiry => exact execRiseTimerExpiry_keepsRails s
  | settleTimerExpiry => exact execSettleTimerExpiry_keepsRails s
  | holdTimerExpiry => exact execHoldTimerExpiry_keepsRails s
  | fallTimerExpiry => exact execFallTimerExpiry_keepsRails s
  | conversionStart => exact keepsRails_of_quiet (execConversionStart_quietFrame s)
  | conversionComplete result => exact execConversionComplete_keepsRails result s
  | ageRise => exact keepsRails_of_quiet (execAgeRise_quietFrame s)
  | readingBecomesStale => exact keepsRails_of_quiet (execReadingBecomesStale_quietFrame s)
  | replyBegin => exact keepsRails_of_link (execReplyBegin_linkFrame s)
  | replySent => exact execReplySent_keepsRails s
  | noticeBegin => exact keepsRails_of_link (execNoticeBegin_linkFrame s)
  | noticeSent => exact keepsRails_of_link (execNoticeSent_linkFrame s)
  | pinReset => exact execPinReset_keepsRails s
  | startUp => exact execStartUp_keepsRails s
  | startUpEnd => exact execStartUpEnd_keepsRails s
  | receivedByte value => exact keepsRails_of_link (execReceivedByte_linkFrame value s)
  | jobWritesPixel => exact keepsRails_of_quiet (execJobWritesPixel_quietFrame s)

/-- Settles O56, command by command. -/
theorem stepKeepsTheRailsLaw : Obligations.StepKeepsTheRailsLaw := by
  intro s t hlaw hstep
  unfold step at hstep
  split at hstep
  · cases hstep
    exact hlaw
  · rename_i c rest _
    exact holdsAfter_next (exec_keepsRails c { s with pending := rest }) hstep hlaw

end Sys2Proof.Machine
end

section
/-! The end of one slot (R51, R52, R63, R77): its rectangle in Target and Shown, its bank's count and its notices. -/

namespace Sys2Proof.Machine

/-! ### The bank and the notices -/

/-- R63, R77: the end of a slot at the banks: its own is released, the other is left. -/
theorem bankAt_releaseBank (bank c : BankId) (s : State) :
    bankAt (releaseBank bank s) c = if c = bank then bankReleased (bankAt s bank) else bankAt s c := by
  rw [← bankAt_setBank, releaseBank_eq]
  cases c <;> rfl

theorem releaseBank_notices (bank : BankId) (s : State) : (releaseBank bank s).notices =
    if bankRetires (bankAt s bank) then offerTo s.notices (.bankRetired bank) else s.notices := by
  rw [releaseBank_eq]

theorem bankRetires_iff (v : Bank) : bankRetires v = true ↔ v.state = .retiring ∧ v.refCount - 1 = 0 := by
  simp [bankRetires]

theorem bankReleased_refCount (v : Bank) : (bankReleased v).refCount = v.refCount - 1 := by
  unfold bankReleased
  split
  · rename_i h
    exact h.2.symm
  · rfl

theorem bankReleased_of_retires {v : Bank} (h : v.state = .retiring) (hlast : v.refCount - 1 = 0) :
    (bankReleased v).state = .loaded := by
  rw [bankReleased, if_pos ⟨h, hlast⟩]

theorem bankReleased_of_stays {v : Bank} (h : ¬ (v.state = .retiring ∧ v.refCount - 1 = 0)) :
    bankReleased v = { v with refCount := v.refCount - 1 } := by
  rw [bankReleased, if_neg h]

theorem otherBank_ne (bank : BankId) : otherBank bank ≠ bank := by cases bank <;> simp [otherBank]

/-- R63, R77, R168: what the end of a slot makes of its bank and the notices, its Update Ended notice offered already. -/
theorem releaseBank_outcome {s t : State} {n : Notice} (bank : BankId) (hbanks : ∀ c, bankAt t c = bankAt s c)
    (hnotices : t.notices = offerTo s.notices n) :
    (bankAt (releaseBank bank t) bank).refCount = (bankAt s bank).refCount - 1 ∧
    (bankAt (releaseBank bank t) (otherBank bank)) = bankAt s (otherBank bank) ∧
    ((bankAt s bank).state = .retiring → (bankAt s bank).refCount = 1 →
      (bankAt (releaseBank bank t) bank).state = .loaded ∧
      (releaseBank bank t).notices = offerTo (offerTo s.notices n) (.bankRetired bank)) ∧
    ((bankAt s bank).state ≠ .retiring ∨ 1 < (bankAt s bank).refCount →
      (bankAt (releaseBank bank t) bank).state = (bankAt s bank).state ∧
      (releaseBank bank t).notices = offerTo s.notices n) := by
  rw [bankAt_releaseBank, if_pos rfl, bankAt_releaseBank, if_neg (otherBank_ne bank), releaseBank_notices, hbanks, hbanks,
    hnotices]
  refine ⟨bankReleased_refCount _, rfl, fun hretiring hcount => ?_, fun hstays => ?_⟩
  · have hlast : (bankAt s bank).refCount - 1 = 0 := by rw [hcount]
    exact ⟨bankReleased_of_retires hretiring hlast, if_pos ((bankRetires_iff _).mpr ⟨hretiring, hlast⟩)⟩
  · have hneg : ¬ ((bankAt s bank).state = .retiring ∧ (bankAt s bank).refCount - 1 = 0) := by
      rintro ⟨hretiring, hlast⟩
      exact hstays.elim (fun hne => hne hretiring) fun hmore => by omega
    exact ⟨by rw [bankReleased_of_stays hneg], if_neg fun h => hneg ((bankRetires_iff _).mp h)⟩

@[simp] theorem clearSlot_notices (i : Fin 8) (s : State) : (clearSlot i s).notices = s.notices := by
  unfold clearSlot
  split <;> rfl

@[simp] theorem bankAt_offerNotice (n : Notice) (s : State) (c : BankId) : bankAt (offerNotice n s) c = bankAt s c := by
  cases c <;> rfl

/-- R51: before its bank is released a completion has touched no bank. -/
theorem bankAt_slotShown (i : Fin 8) (r : Rect) (s : State) (c : BankId) :
    bankAt (setSlot i .free (showTarget r s)) c = bankAt s c := by
  cases c <;> rfl

/-! ### The planes -/

/-- R51: a completion at a pixel. -/
theorem pixelPair_completeSlot (i : Fin 8) (u : Update) {s : State} (h : ImageForm s) (a b : Nat) :
    pixelPair (completeSlot i u s) a b = (planeAt s.target a b,
      if rectContains u.rect.val a b = true then planeAt s.target a b else planeAt s.shown a b) := by
  rw [pixelPair_congr (driveView_completeSlot i u s), pixelPair_setSlot, pixelPair, showTarget_target, showTarget_shown,
    planeAt_paste_crop _ _ _ _ _ h.shown h.target]

/-- R52: an abort at a pixel. -/
theorem pixelPair_abortSlot (result : EndResult) (i : Fin 8) {s : State} (h : ImageForm s) (a b : Nat) :
    pixelPair (abortSlot result s i) a b =
      if slotCovers s.slots[i] a b = true then clearedPixel s.slots[i] (pixelPair s a b) else pixelPair s a b := by
  rw [pixelPair_congr (driveView_abortSlot result s i), pixelPair_clearSlot i h]

theorem pixelPair_abortSlot_armed (result : EndResult) {i : Fin 8} {u : Update} {s : State} (h : ImageForm s)
    (hi : s.slots[i] = .armed u) (a b : Nat) : pixelPair (abortSlot result s i) a b =
      (if rectContains u.rect.val a b = true then planeAt s.shown a b else planeAt s.target a b, planeAt s.shown a b) := by
  rw [pixelPair_abortSlot result i h, hi, slotCovers_armed]
  split <;> rfl

theorem pixelPair_abortSlot_driving (result : EndResult) {i : Fin 8} {u : Update} {s : State} (h : ImageForm s)
    (hi : s.slots[i] = .driving u) (a b : Nat) : pixelPair (abortSlot result s i) a b =
      (if rectContains u.rect.val a b = true then some .unknown else planeAt s.target a b,
        if rectContains u.rect.val a b = true then some .unknown else planeAt s.shown a b) := by
  rw [pixelPair_abortSlot result i h, hi, slotCovers_driving]
  split <;> rfl

theorem completeSlot_slot_same (i : Fin 8) (u : Update) (s : State) : (completeSlot i u s).slots[i] = .free :=
  (slot_of_view (driveView_completeSlot i u s) i).trans (setSlot_slot_same _ _ _)

/-- Settles O32: the planes pixel by pixel, the banks and the notices by the release that both ends share. -/
theorem slotEndsWriteTheirRectangle : Obligations.SlotEndsWriteTheirRectangle := by
  refine ⟨fun s i u result x y hplanes _ _ => ⟨fun _ => ?_, fun hi => ?_, fun hi => ?_⟩, fun s i u _ => ?_,
    fun s i u result driven hi => ?_⟩
  · obtain ⟨htarget, hshown⟩ := Prod.mk.inj (pixelPair_completeSlot i u hplanes.imageForm x y)
    exact ⟨completeSlot_slot_same i u s, htarget, hshown⟩
  · obtain ⟨htarget, hshown⟩ := Prod.mk.inj (pixelPair_abortSlot_armed result hplanes.imageForm hi x y)
    exact ⟨(abortSlot_actsOnSlot result).same s i, hshown, htarget⟩
  · obtain ⟨htarget, hshown⟩ := Prod.mk.inj (pixelPair_abortSlot_driving result hplanes.imageForm hi x y)
    exact ⟨(abortSlot_actsOnSlot result).same s i, hshown, htarget⟩
  · exact releaseBank_outcome u.bank (fun c => by rw [bankAt_offerNotice, bankAt_slotShown]) rfl
  · have hactive : slotUpdate s.slots[i] = some u := by obtain ⟨e, -⟩ | ⟨e, -⟩ := hi <;> rw [e] <;> rfl
    have hdriven : framesDriven s.slots[i] = driven := by obtain ⟨e, rfl⟩ | ⟨e, rfl⟩ := hi <;> rw [e] <;> rfl
    rw [abortSlot_of_active result hactive, hdriven]
    exact releaseBank_outcome u.bank (fun c => by rw [bankAt_offerNotice, bankAt_clearSlot])
      (by rw [offerNotice_notices, clearSlot_notices])

end Sys2Proof.Machine
end

section
/-! The panel drive port (R48 to R50, R193): the drive of a frame in a phase list, the place of a transition in its table, and the
DRIVING slot at a pixel. -/

namespace Sys2Proof.Machine

/-! ### Phase lists -/

theorem phaseSum_cons (step : PhaseStep) (steps : List PhaseStep) :
    phaseSum (step :: steps) = step.frames + phaseSum steps := by
  simp [phaseSum]

/-- R49: past a step the rest of the list gives the drive. -/
theorem phaseDrive_cons_of_lt {step : PhaseStep} {k : Nat} (steps : List PhaseStep) (h : step.frames < k) :
    phaseDrive (step :: steps) k = phaseDrive steps (k - step.frames) := by
  rw [phaseDrive, if_neg (Nat.not_le.mpr h)]

/-- R49: the step that covers a frame gives its drive. -/
theorem phaseDrive_append (before after : List PhaseStep) (step : PhaseStep) (k : Nat) (hlow : phaseSum before < k)
    (hhigh : k ≤ phaseSum before + step.frames) : phaseDrive (before ++ step :: after) k = step.drive := by
  induction before generalizing k with
  | nil => exact if_pos (by simpa [phaseSum] using hhigh)
  | cons first before ih =>
    rw [phaseSum_cons] at hlow hhigh
    rw [List.cons_append, phaseDrive_cons_of_lt _ (by omega)]
    exact ih _ (by omega) (by omega)

/-- R49: past the last step the drive is NEUTRAL. -/
theorem phaseDrive_of_phaseSum_lt (steps : List PhaseStep) (k : Nat) (h : phaseSum steps < k) :
    phaseDrive steps k = .neutral := by
  induction steps generalizing k with
  | nil => rfl
  | cons first steps ih =>
    rw [phaseSum_cons] at h
    rw [phaseDrive_cons_of_lt _ (by omega)]
    exact ih _ (by omega)

/-! ### Transition tables -/

/-- R48, R193: the row of a Shown value. -/
def transitionRow : Pixel → Nat
  | .level l => l.val
  | .unknown => 16

theorem transitionIndex_sixteen {m : ModeRecord} (h : m.twoLevel = false) (old : Pixel) (l : Level) :
    transitionIndex m old l = transitionRow old * 16 + l.val := by
  cases old <;> simp [transitionIndex, transitionRow, h, Nat.mul_comm]

theorem transitionIndex_black {m : ModeRecord} (h : m.twoLevel = true) (old : Pixel) :
    transitionIndex m old 0 = transitionRow old * 2 := by
  cases old <;> simp [transitionIndex, transitionRow, h, Nat.mul_comm]

theorem transitionIndex_white {m : ModeRecord} (h : m.twoLevel = true) (old : Pixel) :
    transitionIndex m old 15 = transitionRow old * 2 + 1 := by
  cases old <;> simp [transitionIndex, transitionRow, h, Nat.mul_comm]

/-- R48: the phase list of a transition stands at its place in the band's table. -/
theorem transitionOf_of_index {m : ModeRecord} {band : Nat} {d : BandData} {old : Pixel} {l : Level} {steps : List PhaseStep}
    (hband : m.bands[band]? = some d) (h : d.table[transitionIndex m old l]? = some steps) :
    transitionOf m band old l = steps := by
  simp [transitionOf, hband, List.getD_eq_getElem?_getD, h]

/-! ### The slot at a pixel -/

/-- R48: the slot found at a pixel is a DRIVING one whose rectangle holds it. -/
theorem drivingAt_eq_some {s : State} {x y : Nat} {u : Update} (h : drivingAt s x y = some u) :
    ∃ i : Fin 8, s.slots[i] = .driving u ∧ rectContains u.rect.val x y = true := by
  obtain ⟨slot, hslot, hfound⟩ := List.exists_of_findSome?_eq_some h
  obtain ⟨n, hn, rfl⟩ := Vector.mem_iff_getElem.mp (Vector.mem_toList_iff.mp hslot)
  cases hs : s.slots[n] with
  | free => simp [hs] at hfound
  | armed v => simp [hs] at hfound
  | driving v =>
    simp only [hs, Option.ite_none_right_eq_some, Option.some_inj] at hfound
    obtain ⟨hin, rfl⟩ := hfound
    exact ⟨⟨n, hn⟩, hs, hin⟩

/-- R48: some slot is found at a pixel that a DRIVING one holds. -/
theorem drivingAt_ne_none {s : State} {x y : Nat} {i : Fin 8} {u : Update} (hi : s.slots[i] = .driving u)
    (hin : rectContains u.rect.val x y = true) : drivingAt s x y ≠ none := by
  intro h
  have hnone := List.findSome?_eq_none_iff.mp h s.slots[i] (by simp)
  simp [hi, hin] at hnone

/-- R40, R48: of slots that are apart the one that holds a pixel is found there. -/
theorem drivingAt_of_slot {s : State} {x y : Nat} {i : Fin 8} {u : Update} (hapart : SlotsApart s)
    (hi : s.slots[i] = .driving u) (hin : rectContains u.rect.val x y = true) : drivingAt s x y = some u := by
  obtain ⟨v, hv⟩ := Option.ne_none_iff_exists'.mp (drivingAt_ne_none hi hin)
  obtain ⟨j, hj, hjin⟩ := drivingAt_eq_some hv
  have hij : i = j := by
    by_contra hne
    have hclear := (slotsApart_iff s).mp hapart i j x y hne (by rw [hi]; exact hin)
    rw [hj, slotCovers_driving, hjin] at hclear
    cases hclear
  subst hij
  rw [hv, ← Slot.driving.inj (hi.symm.trans hj)]

/-! ### The port -/

section
variable {s : State} {x y n : Nat}

theorem panelDrive_of_no_slot (hframe : s.frameTimer = .running n) (h : drivingAt s x y = none) :
    panelDrive s x y = some .neutral := by
  simp only [panelDrive, hframe, h]

theorem panelDrive_of_slot {u : Update} {old new : Pixel} (hframe : s.frameTimer = .running n)
    (h : drivingAt s x y = some u) (hold : planeAt s.shown x y = some old) (hnew : planeAt s.target x y = some new) :
    panelDrive s x y = some (pixelDrive s u old new) := by
  simp only [panelDrive, hframe, h, hold, hnew]

/-- R50: an unchanged pixel that is skipped. -/
theorem pixelDrive_of_skipped {u : Update} {old new : Pixel} (hskip : u.skipUnchanged = true) (h : new = old) :
    pixelDrive s u old new = .neutral := if_pos ⟨hskip, h⟩

/-- R48: any other pixel. -/
theorem pixelDrive_of_driven {u : Update} {old : Pixel} {l : Level} {m : ModeRecord}
    (h : u.skipUnchanged = false ∨ .level l ≠ old) (hmode : slotMode s u = some m) :
    pixelDrive s u old (.level l) = phaseDrive (transitionOf m u.band old l) u.index := by
  have hdriven : ¬ (u.skipUnchanged = true ∧ Pixel.level l = old) := by
    rintro ⟨hskip, hsame⟩
    obtain hfalse | hne := h
    · rw [hskip] at hfalse; cases hfalse
    · exact hne hsame
  unfold pixelDrive
  rw [if_neg hdriven]
  simp only [hmode]

end

/-- Settles O38: the phase lists by induction, the port by the one slot that holds the pixel. -/
theorem panelDriveFollowsTheWaveform : Obligations.PanelDriveFollowsTheWaveform := by
  refine ⟨⟨phaseDrive_append, phaseDrive_of_phaseSum_lt⟩, fun s x y => ⟨fun hstopped => ?_, fun n hframe => ⟨fun hclear => ?_, ?_⟩⟩⟩
  · simp only [panelDrive, hstopped]
  · refine panelDrive_of_no_slot hframe (Option.eq_none_iff_forall_ne_some.mpr fun u hu => ?_)
    obtain ⟨i, hi, hin⟩ := drivingAt_eq_some hu
    rw [hclear i u hi] at hin
    cases hin
  · intro i u old new hapart hi hin hold hnew
    rw [panelDrive_of_slot hframe (drivingAt_of_slot hapart hi hin) hold hnew]
    refine ⟨fun hskip hsame => by rw [pixelDrive_of_skipped hskip hsame], fun l m hdriven hl hmode => ?_⟩
    subst hl
    rw [pixelDrive_of_driven hdriven hmode]
    refine ⟨rfl, fun d steps row hband hrow hsteps => ?_⟩
    have hplace : row = transitionRow old := by
      obtain ⟨rfl, rfl⟩ | ⟨level, rfl, rfl⟩ := hrow <;> rfl
    subst hplace
    rw [transitionOf_of_index hband]
    obtain ⟨hlevels, hsteps⟩ | ⟨hlevels, rfl, hsteps⟩ | ⟨hlevels, rfl, hsteps⟩ := hsteps
    · rwa [transitionIndex_sixteen hlevels]
    · rwa [transitionIndex_black hlevels]
    · rwa [transitionIndex_white hlevels]

end Sys2Proof.Machine
end

section
/-! The ends of slots one after another (R47, R51 to R53, R55, R63, R77): the notices in slot order, and the banks by the slots that
still use them. -/

namespace Sys2Proof.Machine

/-! ### The slots that use a bank -/

/-- R63: the bank a slot uses. -/
def slotBank (x : Slot) : Option BankId := (slotUpdate x).map (·.bank)

theorem slotBank_of_update {x : Slot} {u : Update} (h : slotUpdate x = some u) : slotBank x = some u.bank := by
  rw [slotBank, h]; rfl

theorem slotsUsing_eq_zero_iff (s : State) (bank : BankId) :
    slotsUsing s bank = 0 ↔ ∀ i : Fin 8, slotBank s.slots[i] ≠ some bank := by
  simp only [slotsUsing, List.length_eq_zero_iff, List.filter_eq_nil_iff, decide_eq_true_eq, mem_activeUpdates_iff, slotBank,
    ne_eq, Option.map_eq_some_iff, not_exists, not_and]
  exact ⟨fun h i u hu => h u ⟨i, hu⟩, fun h u ⟨i, hu⟩ => h i u hu⟩

theorem setSlot_slots_of_others {s t : State} {i : Fin 8} (h : ∀ j, j ≠ i → t.slots[j] = s.slots[j]) :
    (setSlot i t.slots[i] s).slots = t.slots := by
  refine Vector.ext fun n hn => ?_
  by_cases hni : (⟨n, hn⟩ : Fin 8) = i
  · subst hni
    exact setSlot_slot_same _ _ s
  · exact (setSlot_slot_other (j := ⟨n, hn⟩) _ s hni).trans (h ⟨n, hn⟩ hni).symm

/-- R63: a change of one slot and the number of slots that use a bank. -/
theorem slotsUsing_of_others {s t : State} {i : Fin 8} (h : ∀ j, j ≠ i → t.slots[j] = s.slots[j]) (bank : BankId) :
    slotsUsing s bank + (if slotBank t.slots[i] = some bank then 1 else 0) =
      slotsUsing t bank + (if slotBank s.slots[i] = some bank then 1 else 0) := by
  obtain ⟨others, hbefore, hafter⟩ := activeUpdates_setSlot i s
  have hcount : ∀ x : Slot, (((slotUpdate x).toList ++ others).filter fun u => decide (u.bank = bank)).length =
      (if slotBank x = some bank then 1 else 0) + (others.filter fun u => decide (u.bank = bank)).length := by
    intro x
    rw [List.filter_append, List.length_append, slotBank]
    cases slotUpdate x with
    | none => simp
    | some u => by_cases hu : u.bank = bank <;> simp [hu]
  have hold := (hbefore.filter fun u => decide (u.bank = bank)).length_eq
  have hnew := ((hafter t.slots[i]).filter fun u => decide (u.bank = bank)).length_eq
  rw [activeUpdates_congr (setSlot_slots_of_others h)] at hnew
  rw [hcount] at hold hnew
  rw [slotsUsing, slotsUsing, hold, hnew]
  omega

/-! ### The banks -/

/-- R63, R77: the banks of `t` are those of `s`, but for each count, the number of the slots that use the bank now, and for the
RETIRING banks that `freed` picks, which are LOADED. -/
def BanksFollow (freed : BankId → Bool) (s t : State) : Prop :=
  ∀ bank, bankAt t bank = { bankAt s bank with
    refCount := slotsUsing t bank
    state := if (bankAt s bank).state = .retiring ∧ freed bank = true then .loaded else (bankAt s bank).state }

/-- R77: whether no slot uses a bank. -/
def bankUnused (t : State) (bank : BankId) : Bool := decide (slotsUsing t bank = 0)

theorem BankLaw.banksFollow {s : State} (h : BankLaw s) : BanksFollow (bankUnused s) s s := by
  obtain ⟨-, hcount, -, hretiring⟩ := h
  intro bank
  have hneg : ¬ ((bankAt s bank).state = .retiring ∧ bankUnused s bank = true) := by
    rintro ⟨hstate, hunused⟩
    have hzero : slotsUsing s bank = 0 := of_decide_eq_true hunused
    have huse := (hretiring bank hstate).1
    rw [hcount bank, hzero] at huse
    exact absurd huse (by decide)
  rw [if_neg hneg, ← hcount bank]

/-- R63, R77: the end of one slot at the banks. -/
theorem BanksFollow.release {s t t' : State} {bank : BankId} (h : BanksFollow (bankUnused t) s t)
    (hbanks : ∀ c, bankAt t' c = bankAt (releaseBank bank t) c) (hown : slotsUsing t bank = slotsUsing t' bank + 1)
    (hother : ∀ c, c ≠ bank → slotsUsing t' c = slotsUsing t c) : BanksFollow (bankUnused t') s t' := by
  intro c
  rw [hbanks, bankAt_releaseBank]
  by_cases hc : c = bank
  · subst hc
    have hused : ¬ ((bankAt s c).state = .retiring ∧ bankUnused t c = true) := by
      rintro ⟨-, hunused⟩
      have hzero : slotsUsing t c = 0 := of_decide_eq_true hunused
      omega
    rw [if_pos rfl, h c, if_neg hused, bankReleased]
    simp only [bankUnused, decide_eq_true_eq, hown, Nat.add_sub_cancel]
    split
    · rename_i hlast
      rw [hlast.2]
    · rfl
  · have hunused : bankUnused t' c = bankUnused t c := by rw [bankUnused, bankUnused, hother c hc]
    rw [if_neg hc, h c, hunused, hother c hc]

/-- R77: the end of a slot retires its bank exactly when the bank was RETIRING at first and no slot uses it any more. -/
theorem BanksFollow.retires_iff {s t : State} {bank : BankId} {n : Nat} (h : BanksFollow (bankUnused t) s t)
    (hown : slotsUsing t bank = n + 1) : bankRetires (bankAt t bank) = true ↔ (bankAt s bank).state = .retiring ∧ n = 0 := by
  have hused : ¬ ((bankAt s bank).state = .retiring ∧ bankUnused t bank = true) := by
    rintro ⟨-, hunused⟩
    have hzero : slotsUsing t bank = 0 := of_decide_eq_true hunused
    omega
  rw [bankRetires_iff, h bank, if_neg hused, hown, Nat.add_sub_cancel]

/-! ### A pass over the slots -/

/-- A fold over a list, each step judged by the part of the list before it. -/
theorem foldl_prefix_induction {α β : Type} {f : β → α → β} {l : List α} {P : List α → β → Prop} {b : β} (h : P [] b)
    (hstep : ∀ done i todo t, l = done ++ i :: todo → P done t → P (done ++ [i]) (f t i)) : P l (l.foldl f b) := by
  have hfrom : ∀ todo done t, l = done ++ todo → P done t → P l (todo.foldl f t) := by
    intro todo
    induction todo with
    | nil => intro done t hl hP; rw [hl, List.append_nil]; exact hP
    | cons i todo ih => intro done t hl hP; exact ih (done ++ [i]) (f t i) (by simp [hl]) (hstep done i todo t hl hP)
  exact hfrom l [] b rfl h

/-- The slot numbers before one in the list are those below it. -/
theorem mem_slotNumbers_before {done todo : List (Fin 8)} {i : Fin 8} (h : slotNumbers = done ++ i :: todo) (j : Fin 8) :
    j ∈ done ↔ j < i := by
  have hsorted : (done ++ i :: todo).Pairwise (· < ·) := h ▸ (by decide : slotNumbers.Pairwise (· < ·))
  obtain ⟨-, htodo, hcross⟩ := List.pairwise_append.mp hsorted
  refine ⟨fun hj => hcross j hj i List.mem_cons_self, fun hj => ?_⟩
  have hmem : j ∈ done ++ i :: todo := h ▸ mem_slotNumbers j
  obtain hdone | hrest := List.mem_append.mp hmem
  · exact hdone
  · obtain rfl | hafter := List.mem_cons.mp hrest
    · exact absurd hj (lt_irrefl _)
    · exact absurd hj (not_lt_of_gt ((List.pairwise_cons.mp htodo).1 j hafter))

/-- An operation on a slot that ends the slots that `ends` picks, with the result, and leaves the others the bank they use. -/
structure EndsSlots (ends : Slot → Bool) (result : EndResult) (f : State → Fin 8 → State) : Prop where
  free : ends .free = false
  other : ∀ s i j, j ≠ i → (f s i).slots[j] = s.slots[j]
  ended : ∀ s i u, slotUpdate s.slots[i] = some u → ends s.slots[i] = true → (f s i).slots[i] = .free ∧
    (∀ c, bankAt (f s i) c = bankAt (releaseBank u.bank s) c) ∧ (f s i).notices =
      (releaseBank u.bank (offerNotice (.updateEnded u.id result (framesDriven s.slots[i]) u.changed) s)).notices
  kept : ∀ s i, ends s.slots[i] = false → slotBank (f s i).slots[i] = slotBank s.slots[i] ∧
    (∀ c, bankAt (f s i) c = bankAt s c) ∧ (f s i).notices = s.notices

theorem EndsSlots.active {ends : Slot → Bool} {result : EndResult} {f : State → Fin 8 → State} (h : EndsSlots ends result f)
    {x : Slot} (hx : ends x = true) : ∃ u, slotUpdate x = some u := by
  cases x with
  | free => rw [h.free] at hx; cases hx
  | armed u => exact ⟨u, rfl⟩
  | driving u => exact ⟨u, rfl⟩

/-- R51 to R53, R77: the notices of the end of one slot. -/
def slotEndNotice (ends : Slot → Bool) (result : EndResult) (s : State) (i : Fin 8) : List Notice :=
  match slotUpdate s.slots[i] with
  | none => []
  | some u =>
      if ends s.slots[i] then
        .updateEnded u.id result (framesDriven s.slots[i]) u.changed ::
          (if (bankAt s u.bank).state = .retiring ∧ bankFreedBy ends s u.bank i = true then [.bankRetired u.bank] else [])
      else []

theorem slotEndNotices_eq (ends : Slot → Bool) (result : EndResult) (s : State) :
    slotEndNotices ends result s = slotNumbers.flatMap (slotEndNotice ends result s) := rfl

theorem slotEndNotice_of_kept {ends : Slot → Bool} (result : EndResult) {s : State} {i : Fin 8} (h : ends s.slots[i] = false) :
    slotEndNotice ends result s i = [] := by
  unfold slotEndNotice
  rw [h]
  cases slotUpdate s.slots[i] <;> rfl

theorem slotEndNotice_of_ended {ends : Slot → Bool} (result : EndResult) {s : State} {i : Fin 8} {u : Update}
    (hu : slotUpdate s.slots[i] = some u) (h : ends s.slots[i] = true) : slotEndNotice ends result s i =
      .updateEnded u.id result (framesDriven s.slots[i]) u.changed ::
        (if (bankAt s u.bank).state = .retiring ∧ bankFreedBy ends s u.bank i = true then [.bankRetired u.bank] else []) := by
  unfold slotEndNotice
  rw [hu, h]
  rfl

theorem bankFreedBy_iff (ends : Slot → Bool) (s : State) (bank : BankId) (i : Fin 8) : bankFreedBy ends s bank i = true ↔
    ∀ j : Fin 8, (ends s.slots[j] = true ∧ j ≤ i) ∨ slotBank s.slots[j] ≠ some bank := by
  simp only [bankFreedBy, List.all_eq_true, mem_slotNumbers, true_implies]
  refine forall_congr' fun j => ?_
  rw [slotBank]
  cases slotUpdate s.slots[j] <;> simp [or_comm]

/-- R47, R63, R77: what a pass has done once it is past the slots `done`: the bank each slot uses, the banks and the notices. -/
structure PassDone (ends : Slot → Bool) (result : EndResult) (s : State) (done : List (Fin 8)) (t : State) : Prop where
  waiting : ∀ j, j ∉ done → t.slots[j] = s.slots[j]
  uses : ∀ j, slotBank t.slots[j] = if ends s.slots[j] = true ∧ j ∈ done then none else slotBank s.slots[j]
  banks : BanksFollow (bankUnused t) s t
  notices : t.notices = (done.flatMap (slotEndNotice ends result s)).foldl offerTo s.notices

/-- R77: no slot uses a bank any more exactly when the ends so far have freed it. -/
theorem slotsUsing_eq_zero_iff_freedBy {ends : Slot → Bool} {s t : State} (bank : BankId) (i : Fin 8)
    (h : ∀ j, slotBank t.slots[j] = if ends s.slots[j] = true ∧ j ≤ i then none else slotBank s.slots[j]) :
    slotsUsing t bank = 0 ↔ bankFreedBy ends s bank i = true := by
  rw [slotsUsing_eq_zero_iff, bankFreedBy_iff]
  refine forall_congr' fun j => ?_
  rw [h j]
  by_cases hends : ends s.slots[j] = true ∧ j ≤ i
  · rw [if_pos hends]
    exact ⟨fun _ => .inl hends, fun _ => (nomatch ·)⟩
  · rw [if_neg hends]
    simp only [hends, false_or]

section
variable {ends : Slot → Bool} {result : EndResult} {f : State → Fin 8 → State} {s t : State} {done todo : List (Fin 8)}
  {i : Fin 8}

theorem PassDone.step_waiting (h : PassDone ends result s done t) (hf : EndsSlots ends result f) (j : Fin 8)
    (hj : j ∉ done ++ [i]) : (f t i).slots[j] = s.slots[j] := by
  simp only [List.mem_append, List.mem_singleton, not_or] at hj
  rw [hf.other t i j hj.2, h.waiting j hj.1]

theorem PassDone.step_uses (h : PassDone ends result s done t) (hf : EndsSlots ends result f) (hi : i ∉ done) (j : Fin 8) :
    slotBank (f t i).slots[j] = if ends s.slots[j] = true ∧ j ∈ done ++ [i] then none else slotBank s.slots[j] := by
  by_cases hj : j = i
  · subst hj
    have hslot := h.waiting j hi
    cases hends : ends s.slots[j] with
    | false =>
      rw [(hf.kept t j (by rw [hslot]; exact hends)).1, hslot]
      simp
    | true =>
      obtain ⟨u, hu⟩ := hf.active hends
      rw [(hf.ended t j u (by rw [hslot]; exact hu) (by rw [hslot]; exact hends)).1]
      simp [slotBank, slotUpdate]
  · rw [hf.other t i j hj, h.uses]
    simp [hj]

/-- R77: past slot `i` no slot uses a bank any more exactly when the ends so far have freed it. -/
theorem PassDone.step_freed (h : PassDone ends result s done t) (hf : EndsSlots ends result f)
    (hl : slotNumbers = done ++ i :: todo) (bank : BankId) :
    slotsUsing (f t i) bank = 0 ↔ bankFreedBy ends s bank i = true := by
  have hbefore := mem_slotNumbers_before hl
  refine slotsUsing_eq_zero_iff_freedBy bank i fun j => ?_
  rw [h.step_uses hf (fun hi => lt_irrefl i ((hbefore i).mp hi))]
  simp only [List.mem_append, List.mem_singleton, hbefore, le_iff_lt_or_eq]

/-- R63, R77: a pass goes on past a slot that it leaves. -/
theorem PassDone.step_kept (h : PassDone ends result s done t) (hf : EndsSlots ends result f) (hi : i ∉ done)
    (hends : ends s.slots[i] = false) : PassDone ends result s (done ++ [i]) (f t i) := by
  have hslot := h.waiting i hi
  obtain ⟨huse, hbanks, hnotices⟩ := hf.kept t i (by rw [hslot]; exact hends)
  have hcount : ∀ c, slotsUsing (f t i) c = slotsUsing t c := fun c => by
    have hchange := slotsUsing_of_others (hf.other t i) c
    rw [huse] at hchange
    omega
  refine ⟨h.step_waiting hf, h.step_uses hf hi, fun c => ?_, ?_⟩
  · rw [hbanks, h.banks c, bankUnused, bankUnused, hcount]
  · rw [hnotices, h.notices, List.flatMap_append, List.flatMap_singleton, slotEndNotice_of_kept result hends, List.append_nil]

/-- R51 to R53, R63, R77: a pass goes on past a slot that it ends. -/
theorem PassDone.step_ended (h : PassDone ends result s done t) (hf : EndsSlots ends result f)
    (hl : slotNumbers = done ++ i :: todo) (hends : ends s.slots[i] = true) :
    PassDone ends result s (done ++ [i]) (f t i) := by
  have hi : i ∉ done := fun hi => lt_irrefl i ((mem_slotNumbers_before hl i).mp hi)
  have hslot := h.waiting i hi
  obtain ⟨u, hu⟩ := hf.active hends
  have hu' : slotUpdate t.slots[i] = some u := by rw [hslot]; exact hu
  obtain ⟨hfree, hbanks, hnotices⟩ := hf.ended t i u hu' (by rw [hslot]; exact hends)
  have hchange := slotsUsing_of_others (hf.other t i)
  simp only [hfree, slotBank_of_update hu'] at hchange
  have hown : slotsUsing t u.bank = slotsUsing (f t i) u.bank + 1 := by simpa [slotBank, slotUpdate] using hchange u.bank
  have hother : ∀ c, c ≠ u.bank → slotsUsing (f t i) c = slotsUsing t c := fun c hc => by
    simpa [slotBank, slotUpdate, Ne.symm hc] using (hchange c).symm
  refine ⟨h.step_waiting hf, h.step_uses hf hi, h.banks.release hbanks hown hother, ?_⟩
  have hretires : bankRetires (bankAt t u.bank) = true ↔
      (bankAt s u.bank).state = .retiring ∧ bankFreedBy ends s u.bank i = true := by
    rw [h.banks.retires_iff hown, h.step_freed hf hl]
  rw [hnotices, releaseBank_notices, bankAt_offerNotice, offerNotice_notices, hslot, h.notices, List.flatMap_append,
    List.flatMap_singleton, slotEndNotice_of_ended result hu hends, List.foldl_append, List.foldl_cons]
  by_cases hretired : (bankAt s u.bank).state = .retiring ∧ bankFreedBy ends s u.bank i = true
  · rw [if_pos (hretires.mpr hretired), if_pos hretired]
    rfl
  · rw [if_neg fun hr => hretired (hretires.mp hr), if_neg hretired]
    rfl

/-- R51 to R53, R63, R77: what a pass over all the slots makes of the notices and the banks. -/
theorem EndsSlots.all (hf : EndsSlots ends result f) (hbank : BankLaw s) :
    (slotNumbers.foldl f s).notices = (slotEndNotices ends result s).foldl offerTo s.notices ∧
      BanksFollow (fun bank => bankFreedBy ends s bank 7) s (slotNumbers.foldl f s) := by
  have hdone : PassDone ends result s slotNumbers (slotNumbers.foldl f s) := by
    refine foldl_prefix_induction (P := PassDone ends result s) ⟨fun _ _ => rfl, fun j => by simp, hbank.banksFollow, rfl⟩
      fun done i todo t hl h => ?_
    cases hends : ends s.slots[i] with
    | false => exact h.step_kept hf (fun hi => lt_irrefl i ((mem_slotNumbers_before hl i).mp hi)) hends
    | true => exact h.step_ended hf hl hends
  refine ⟨by rw [hdone.notices, slotEndNotices_eq], fun bank => ?_⟩
  have hlast : ∀ j : Fin 8, j ≤ 7 := fun j => Fin.le_last j
  have hfreed : bankUnused (slotNumbers.foldl f s) bank = bankFreedBy ends s bank 7 := by
    rw [bankUnused, Bool.eq_iff_iff, decide_eq_true_eq]
    refine slotsUsing_eq_zero_iff_freedBy bank 7 fun j => ?_
    rw [hdone.uses]
    simp only [mem_slotNumbers, hlast]
  rw [hdone.banks bank, hfreed]

end

/-! ### The two passes -/

/-- R52: the aborts of every active slot. -/
theorem abortSlot_endsSlots (result : EndResult) : EndsSlots isActive result (abortSlot result) where
  free := rfl
  other := (abortSlot_actsOnSlot result).other
  ended s i u hu _ := by
    refine ⟨(abortSlot_actsOnSlot result).same s i, fun c => ?_, ?_⟩
    · rw [abortSlot_of_active result hu]
      simp only [bankAt_releaseBank, bankAt_offerNotice, bankAt_clearSlot]
    · rw [abortSlot_of_active result hu]
      simp only [releaseBank_notices, bankAt_offerNotice, bankAt_clearSlot, offerNotice_notices, clearSlot_notices]
  kept s i h := by
    have hfree : s.slots[i] = .free := (slotIsFree_iff _).mp (by simpa [isActive] using h)
    rw [abortSlot_of_free result hfree]
    exact ⟨rfl, fun _ => rfl, rfl⟩

theorem bankAt_setSlot (i : Fin 8) (x : Slot) (s : State) (bank : BankId) : bankAt (setSlot i x s) bank = bankAt s bank := by
  cases bank <;> rfl

/-- R47, R51: the completions of a boundary in RUNNING. -/
theorem advanceSlot_endsSlots : EndsSlots atLastFrame .done advanceSlot where
  free := rfl
  other := advanceSlot_actsOnSlot.other
  ended s i u hu h := by
    obtain ⟨hi, hlast⟩ : s.slots[i] = .driving u ∧ u.index = u.frames := by
      cases hs : s.slots[i] <;> simp_all [atLastFrame, slotUpdate]
    have hdone : advanceSlot s i = completeSlot i u s := by
      unfold advanceSlot
      simp only [hi, hlast, if_true]
    rw [hdone, hi]
    refine ⟨completeSlot_slot_same i u s, fun c => ?_, ?_⟩
    · simp only [completeSlot, bankAt_releaseBank, bankAt_offerNotice, bankAt_slotShown]
    · simp only [completeSlot, releaseBank_notices, bankAt_offerNotice, bankAt_slotShown, framesDriven, hlast]
      rfl
  kept s i h := by
    unfold advanceSlot
    split
    case h_1 => exact ⟨rfl, fun _ => rfl, rfl⟩
    case h_2 u hi =>
      rw [setSlot_slot_same, hi]
      exact ⟨rfl, bankAt_setSlot i _ s, rfl⟩
    case h_3 u hi =>
      have hbelow : u.index ≠ u.frames := by simpa [atLastFrame, hi] using h
      rw [if_neg hbelow, setSlot_slot_same, hi]
      exact ⟨rfl, bankAt_setSlot i _ s, rfl⟩

end Sys2Proof.Machine
end

section
/-! The abort of every active slot (R52, R53, R55, R63, R77): the planes, the notices, the banks and the Update Queue. -/

namespace Sys2Proof.Machine

/-! ### Every active slot aborted -/

theorem driveView_abortAll (result : EndResult) (s : State) : driveView (abortAll result s) = driveView (abandonAll s) :=
  (driveView_foldl_clearSlot (driveView_abortSlot result) slotNumbers rfl).trans (driveView_abandonAll s).symm

section
variable (result : EndResult) {s : State} {a b : Nat}

/-- R52: a pixel that an active slot covers, after the aborts. -/
theorem pixelPair_abortAll_covered (hform : ImageForm s) (hapart : SlotsApart s) {i : Fin 8}
    (hc : slotCovers s.slots[i] a b = true) :
    pixelPair (abortAll result s) a b = clearedPixel s.slots[i] (pixelPair s a b) :=
  (pixelPair_congr (driveView_abortAll result s) a b).trans (pixelPair_abandonAll_covered hform hapart hc)

theorem pixelPair_abortAll_uncovered (hform : ImageForm s) (hc : ¬ inActiveSlot s a b) :
    pixelPair (abortAll result s) a b = pixelPair s a b :=
  (pixelPair_congr (driveView_abortAll result s) a b).trans (pixelPair_abandonAll_uncovered hform hc)

end

/-- R77: once every active slot has ended no slot uses a bank. -/
theorem bankFreedBy_isActive (s : State) (bank : BankId) : bankFreedBy isActive s bank 7 = true := by
  refine (bankFreedBy_iff _ _ _ _).mpr fun j => ?_
  cases hj : s.slots[j] with
  | free => exact .inr (by simp [slotBank, slotUpdate])
  | armed u => exact .inl ⟨rfl, Fin.le_last j⟩
  | driving u => exact .inl ⟨rfl, Fin.le_last j⟩

theorem slotsUsing_of_free {s : State} (h : ∀ i : Fin 8, s.slots[i] = .free) (bank : BankId) : slotsUsing s bank = 0 := by
  refine (slotsUsing_eq_zero_iff s bank).mpr fun i => ?_
  rw [h i]
  simp [slotBank, slotUpdate]

/-- R52, R53, R55, R63, R77: the aborts of every active slot. -/
theorem abortAll_slotsAborted (result : EndResult) (s : State) : SlotsAborted result s.notices s (abortAll result s) := by
  refine ⟨abortAll_slot result s, fun hplanes hapart x y _ _ => ⟨fun i u hi hin => ?_, fun i u hi hin => ?_, fun hout => ?_⟩,
    fun hbank => ?_⟩
  · have hpixel := pixelPair_abortAll_covered result hplanes.imageForm hapart (i := i) (by rw [hi]; exact hin)
    rw [hi] at hpixel
    exact Prod.mk.inj hpixel
  · have hpixel := pixelPair_abortAll_covered result hplanes.imageForm hapart (i := i) (by rw [hi]; exact hin)
    rw [hi] at hpixel
    exact Prod.mk.inj hpixel
  · exact Prod.mk.inj (pixelPair_abortAll_uncovered result hplanes.imageForm hout)
  · obtain ⟨hnotices, hbanks⟩ := (abortSlot_endsSlots result).all hbank
    refine ⟨hnotices, fun bank => (hbanks bank).trans ?_⟩
    have hnone : slotsUsing (slotNumbers.foldl (abortSlot result) s) bank = 0 :=
      slotsUsing_of_free (abortAll_slot result s) bank
    simp only [hnone, bankFreedBy_isActive, and_true]

/-- What aborts leave is said of the planes, the slots, the notices and the banks alone. -/
theorem SlotsAborted.congr {result : EndResult} {before : NoticeQueue} {s t t' : State} (h : SlotsAborted result before s t)
    (hview : driveView t' = driveView t) (hnotices : t'.notices = t.notices) (hbanks : ∀ bank, bankAt t' bank = bankAt t bank) :
    SlotsAborted result before s t' := by
  simp only [driveView, DriveView.mk.injEq] at hview
  obtain ⟨-, htarget, hshown, hslots⟩ := hview
  unfold SlotsAborted at *
  simpa only [htarget, hshown, hslots, hnotices, hbanks] using h

/-- R54: with no slot DRIVING the aborts of the ARMED slots are those of all active ones. -/
theorem abortArmed_eq_abortAll {s : State} (h : ∀ i : Fin 8, isDriving s.slots[i] = false) :
    abortArmed s = abortAll .halted s := by
  have hfold : ∀ (l : List (Fin 8)) (t : State), (∀ i : Fin 8, isDriving t.slots[i] = false) →
      l.foldl abortIfArmed t = l.foldl (abortSlot .halted) t := by
    intro l
    induction l with
    | nil => intro t _; rfl
    | cons i l ih =>
      intro t ht
      have hstep : abortIfArmed t i = abortSlot .halted t i := by
        unfold abortIfArmed
        split
        case h_1 hi => rw [abortSlot_of_free _ hi]
        case h_2 => rfl
        case h_3 u hi => have hdriving := ht i; rw [hi] at hdriving; cases hdriving
      rw [List.foldl_cons, List.foldl_cons, hstep]
      refine ih _ fun j => ?_
      by_cases hj : j = i
      · rw [hj, (abortSlot_actsOnSlot .halted).same]; rfl
      · rw [(abortSlot_actsOnSlot .halted).other t i j hj]; exact ht j
  exact hfold slotNumbers s h

/-- R52: aborts take no entry out of the Update Queue. -/
theorem abortAll_queue (result : EndResult) (s : State) : (abortAll result s).queue = s.queue := by
  have hslot : ∀ (t : State) (i : Fin 8), (abortSlot result t i).queue = t.queue := fun t i => by
    unfold abortSlot
    split
    · rfl
    · rw [releaseBank_quietFrame _ _]
      unfold clearSlot
      split <;> rfl
  have hfold : ∀ (l : List (Fin 8)) (t : State), (l.foldl (abortSlot result) t).queue = t.queue := by
    intro l
    induction l with
    | nil => intro t; rfl
    | cons i l ih => intro t; rw [List.foldl_cons, ih, hslot]
  exact hfold slotNumbers s

end Sys2Proof.Machine
end

section
/-! Halt, the fast-fall request and Resume in each halt and rail state (R54, R57, R58, R105). -/

namespace Sys2Proof.Machine

/-! ### The fields -/

theorem haltFields_of_length {p : List Byte} (h : p.length ≠ 1) : haltFields p = .error .badLength := if_pos h

theorem haltFields_flag (flush : Bool) : haltFields [flagByte flush] = .ok flush := by
  cases flush <;> rfl

theorem haltFields_of_badFlag {b : Byte} (h0 : b ≠ 0) (h1 : b ≠ 1) : haltFields [b] = .error .badField := by
  have hflag : flagOf (byteField [b] 0) = none := (if_neg h0).trans (if_neg h1)
  simp [haltFields, hflag]

theorem noFields_of_ne_nil {p : List Byte} (h : p ≠ []) : noFields p = .error .badLength :=
  if_neg fun hlength => h (List.length_eq_zero_iff.mp hlength)

/-! ### The fast-fall request -/

section
variable {s : State}

theorem fastFallRequest_of_idle (h : s.rails.state = .off ∨ s.rails.state = .falling ∨ s.rails.state = .fault) :
    fastFallRequest s = s := by
  unfold fastFallRequest
  obtain h | h | h := h <;> rw [h]

theorem fastFallRequest_of_driven (h : s.rails.state = .rising ∨ s.rails.state = .on) :
    fastFallRequest s = { s with rails := { s.rails with fastFall := true } } := by
  unfold fastFallRequest
  obtain h | h := h <;> rw [h]

theorem fastFallRequest_of_holding (h : s.rails.state = .holding) : fastFallRequest s = enterFalling s := by
  unfold fastFallRequest
  rw [h]

end

theorem fastFallRequest_rails_congr {s t : State} (hrails : t.rails = s.rails) (hparams : t.params = s.params) :
    (fastFallRequest t).rails = (fastFallRequest s).rails := by
  unfold fastFallRequest enterFalling
  rw [hrails, hparams]
  cases s.rails.state <;> simp [hrails]

/-- R105: a fast-fall request changes the rails alone, by the rails and the parameters. -/
theorem fastFallRequest_eq {s t : State} (hrails : t.rails = s.rails) (hparams : t.params = s.params) :
    fastFallRequest t = { t with rails := (fastFallRequest s).rails } := by
  rw [← fastFallRequest_rails_congr hrails hparams]
  unfold fastFallRequest
  split <;> rfl

/-! ### The Halt begun -/

/-- R54: the notices after a Halt's flush, if it asks for one. -/
def flushedNotices (flush : Bool) (s : State) : NoticeQueue :=
  if flush = true then (s.queue.map fun x => Notice.updateEnded x.id .cancelled 0 0).foldl offerTo s.notices else s.notices

theorem flushIfAsked_eq (flush : Bool) (s : State) : flushIfAsked flush s =
    { s with queue := if flush = true then [] else s.queue, notices := flushedNotices flush s } := by
  cases flush
  · rfl
  · exact flushQueue_eq s

/-- R54, R57: a Halt taken, before its aborts: HALTING, its entry DEFERRED, the flush done and the fast fall requested. -/
def haltTaken (flush : Bool) (s : State) : State :=
  { s with
    halt := .halting
    link := (deferEntry .halt s).link
    queue := if flush = true then [] else s.queue
    notices := flushedNotices flush s
    rails := (fastFallRequest s).rails }

theorem beginHalt_eq (flush : Bool) (s : State) : beginHalt flush s = haltedIfIdle (abortUnlessOn (haltTaken flush s)) := by
  rw [beginHalt, flushIfAsked_eq]
  exact congrArg (fun t => haltedIfIdle (abortUnlessOn t)) (fastFallRequest_eq (s := s) rfl rfl)

theorem takeHalt_of_flag {s : State} {r : Request} {flush : Bool} (hp : r.payload = [flagByte flush])
    (hhalt : s.halt ≠ .halted) : takeHalt r s = beginHalt flush s := by
  unfold takeHalt
  rw [hp, haltFields_flag]
  cases h : s.halt with
  | running => rfl
  | halting => rfl
  | halted => exact absurd h hhalt

theorem takeHalt_of_error {s : State} {r : Request} {st : Status} (h : haltFields r.payload = .error st) :
    takeHalt r s = answerEntry r st [] .nothing s := by
  unfold takeHalt
  rw [h]

theorem exec_halt {s : State} {r : Request} (h : takes s .halt r) : exec .halt s = .next (takeHalt r s) :=
  congrArg Host.Outcome.next (dispatch_of_takes takeHalt h)

theorem exec_resume {s : State} {r : Request} (h : takes s .resume r) : exec .resume s = .next (takeResume r s) :=
  congrArg Host.Outcome.next (dispatch_of_takes takeResume h)

/-- R54: with frames running and slots active the Halt waits. -/
theorem beginHalt_of_on (flush : Bool) {s : State} (hon : s.rails.state = .on) (hdemand : demand s = true) :
    beginHalt flush s = haltTaken flush s := by
  have hrails : (haltTaken flush s).rails.state = .on := (fastFallRequest_on_iff s).mpr hon
  have hbusy : ¬ ((haltTaken flush s).halt = .halting ∧ demand (haltTaken flush s) = false) := by
    rintro ⟨-, hidle⟩
    rw [show demand (haltTaken flush s) = demand s from demand_congr rfl, hdemand] at hidle
    cases hidle
  rw [beginHalt_eq, abortUnlessOn, if_pos hrails, haltedIfIdle, if_neg hbusy]

theorem driveFrame_link {s t : State} (h : driveFrame s t) : t.link = s.link := by rw [h]

/-- R154, R157: the end of work at the Control Line follows from the Control Line alone. -/
theorem finishWork_link_congr {s t : State} (work : Work) (st : Status) (fields : List Byte) (h : t.link = s.link) :
    (finishWork work st fields t).link = (finishWork work st fields s).link := by
  unfold finishWork
  rw [h]

/-- R56: what the end of a halt sets and leaves. -/
structure HaltEnds (s t : State) : Prop where
  halt : t.halt = .halted
  link : t.link = (finishWork .halt .ok [] s).link
  view : driveView t = driveView s
  queue : t.queue = s.queue
  notices : t.notices = s.notices
  banks : ∀ bank, bankAt t bank = bankAt s bank
  rails : t.rails = s.rails
  params : t.params = s.params

/-- R56: with no slot active a halt ends. -/
theorem haltedIfIdle_ends {s : State} (hhalt : s.halt = .halting) (hdemand : demand s = false) :
    HaltEnds s (haltedIfIdle s) := by
  rw [haltedIfIdle, if_pos ⟨hhalt, hdemand⟩]
  exact ⟨rfl, rfl, rfl, rfl, rfl, fun bank => by cases bank <;> rfl, rfl, rfl⟩

/-- R54: with no frame running every ARMED slot aborts. -/
theorem beginHalt_of_not_on (flush : Bool) {s : State} (hon : s.rails.state ≠ .on)
    (hdriven : ∀ i : Fin 8, isDriving s.slots[i] = false) :
    beginHalt flush s = haltedIfIdle (abortAll .halted (haltTaken flush s)) := by
  have hrails : (haltTaken flush s).rails.state ≠ .on := fun h => hon ((fastFallRequest_on_iff s).mp h)
  have hdriven' : ∀ i : Fin 8, isDriving (haltTaken flush s).slots[i] = false := hdriven
  rw [beginHalt_eq, abortUnlessOn, if_neg hrails, abortArmed_eq_abortAll hdriven']

/-- R52 to R56: what a Halt with no frame running leaves. -/
theorem beginHalt_of_not_on_outcome (flush : Bool) {s : State} (hon : s.rails.state ≠ .on)
    (hdriven : ∀ i : Fin 8, isDriving s.slots[i] = false) :
    (beginHalt flush s).halt = .halted ∧ (∀ i : Fin 8, (beginHalt flush s).slots[i] = .free) ∧
      (beginHalt flush s).queue = (if flush = true then [] else s.queue) ∧
      (beginHalt flush s).link = (finishWork .halt .ok [] (deferEntry .halt s)).link ∧
      (beginHalt flush s).rails = (fastFallRequest s).rails ∧
      SlotsAborted .halted (flushedNotices flush s) s (beginHalt flush s) := by
  have hframe := abortAll_driveFrame .halted (haltTaken flush s)
  have hlink : (abortAll .halted (haltTaken flush s)).link = (deferEntry .halt s).link := (driveFrame_link hframe).trans rfl
  have hrails : (abortAll .halted (haltTaken flush s)).rails = (fastFallRequest s).rails := (driveFrame_rails hframe).trans rfl
  have hends := haltedIfIdle_ends ((driveFrame_halt hframe).trans rfl) (demand_abortAll .halted (haltTaken flush s))
  have haborted : SlotsAborted .halted (flushedNotices flush s) s (abortAll .halted (haltTaken flush s)) :=
    abortAll_slotsAborted .halted (haltTaken flush s)
  have hended := haborted.congr hends.view hends.notices hends.banks
  rw [beginHalt_of_not_on flush hon hdriven]
  exact ⟨hends.halt, hended.1, hends.queue.trans (abortAll_queue .halted (haltTaken flush s)),
    hends.link.trans (finishWork_link_congr _ _ _ hlink), hends.rails.trans hrails, hended⟩

/-- R58: a Resume by its payload and the halt state. -/
theorem takeResume_eq (r : Request) (s : State) : takeResume r s =
    if r.payload ≠ [] then answerEntry r .badLength [] .nothing s
    else match s.halt with
      | .running => answerEntry r .ok [] .nothing s
      | .halting => answerEntry r .busy [] .nothing s
      | .halted => evaluate (answerEntry r .ok [] .nothing { s with halt := .running }) := by
  unfold takeResume
  by_cases hp : r.payload = []
  · rw [hp]
    rfl
  · rw [noFields_of_ne_nil hp, if_pos hp]

/-- Settles O33: a Halt by its flag, the halt state and the rails, the fast-fall request and Resume by their states. -/
theorem haltAndResume : Obligations.HaltAndResume := by
  refine ⟨fun s r htakes => ⟨fun hlength => ?_, fun b hp h0 h1 => ?_⟩,
    fun s r flush htakes hp => ⟨fun hhalt hon hdemand => ?_, fun hhalt hon hdriven => ?_, fun hhalt => ?_⟩,
    fun s => ⟨fastFallRequest_of_idle, fastFallRequest_of_driven, fastFallRequest_of_holding⟩,
    fun s r htakes => ⟨fun hp => ?_, fun hp => ⟨fun hhalt => ?_, fun hhalt => ?_, fun hhalt => ?_⟩⟩⟩
  · rw [exec_halt htakes, takeHalt_of_error (haltFields_of_length hlength)]
  · rw [exec_halt htakes, takeHalt_of_error (hp ▸ haltFields_of_badFlag h0 h1)]
  · refine ⟨haltTaken flush s, ?_, rfl, ?_, rfl, rfl, rfl, rfl⟩
    · rw [exec_halt htakes, takeHalt_of_flag hp hhalt, beginHalt_of_on flush hon hdemand]
    · rw [haltTaken, fastFallRequest_of_driven (.inr hon)]
  · refine ⟨beginHalt flush s, ?_, beginHalt_of_not_on_outcome flush hon hdriven⟩
    rw [exec_halt htakes, takeHalt_of_flag hp hhalt]
  · have hagain : takeHalt r s = haltAgain r flush s := by
      unfold takeHalt
      rw [hp, haltFields_flag, hhalt]
    rw [exec_halt htakes, hagain, haltAgain, flushIfAsked]
  · rw [exec_resume htakes, takeResume_eq, if_pos hp]
  all_goals rw [exec_resume htakes, takeResume_eq, if_neg (not_not.mpr hp), hhalt]

end Sys2Proof.Machine
end


section
/-! A frame boundary in RUNNING and in HALTING (R42, R47, R51, R52, R55, R56, R63, R77, R99, R108). -/

namespace Sys2Proof.Machine

/-! ### The completions at the planes -/

/-- R47, R51: whether a slot completes at the next boundary in RUNNING over a pixel. -/
def completesAt (x : Slot) (a b : Nat) : Bool := atLastFrame x && slotCovers x a b

theorem completesAt_iff (x : Slot) (a b : Nat) :
    completesAt x a b = true ↔ ∃ u, x = .driving u ∧ u.index = u.frames ∧ rectContains u.rect.val a b = true := by
  cases x <;> simp [completesAt, atLastFrame]

/-- R47, R51: one slot at a boundary in RUNNING changes Shown alone, over the rectangle it completes. -/
theorem advanceSlot_planes {s : State} (h : ImageForm s) (i : Fin 8) : (advanceSlot s i).target = s.target ∧
    ImageForm (advanceSlot s i) ∧ ∀ a b : Nat, planeAt (advanceSlot s i).shown a b =
      if completesAt s.slots[i] a b = true then planeAt s.target a b else planeAt s.shown a b := by
  unfold advanceSlot
  split
  case h_1 hi => exact ⟨rfl, h, fun a b => by rw [hi]; rfl⟩
  case h_2 u hi => exact ⟨rfl, ⟨h.target, h.shown⟩, fun a b => by rw [hi]; rfl⟩
  case h_3 u hi =>
    split
    · rename_i hlast
      have hview := driveView_completeSlot i u s
      have htarget : (completeSlot i u s).target = s.target := congrArg DriveView.target hview
      have hshown : (completeSlot i u s).shown = (showTarget u.rect.val s).shown := congrArg DriveView.shown hview
      refine ⟨htarget, ⟨htarget ▸ h.target, ?_⟩, fun a b => ?_⟩
      · rw [hshown]
        exact planeWf_paste_crop _ _ _ h.shown h.target
      · rw [hshown, showTarget_shown, planeAt_paste_crop _ _ _ _ _ h.shown h.target, hi]
        simp [completesAt, atLastFrame, hlast]
    · rename_i hbelow
      exact ⟨rfl, ⟨h.target, h.shown⟩, fun a b => by rw [hi]; simp [completesAt, atLastFrame, hbelow]⟩

/-- R47, R51: the completions of a boundary change Shown alone, over the rectangles that complete. -/
theorem foldl_advanceSlot_planes (l : List (Fin 8)) (hl : l.Nodup) {s : State} (h : ImageForm s) :
    (l.foldl advanceSlot s).target = s.target ∧ ImageForm (l.foldl advanceSlot s) ∧
      ∀ a b : Nat, planeAt (l.foldl advanceSlot s).shown a b =
        if ∃ i ∈ l, completesAt s.slots[i] a b = true then planeAt s.target a b else planeAt s.shown a b := by
  induction l generalizing s with
  | nil => exact ⟨rfl, h, fun a b => by simp⟩
  | cons i l ih =>
    obtain ⟨hi, hl⟩ := List.nodup_cons.mp hl
    obtain ⟨htarget, hform, hpixel⟩ := advanceSlot_planes h i
    obtain ⟨htarget', hform', hpixel'⟩ := ih hl hform
    refine ⟨htarget'.trans htarget, hform', fun a b => ?_⟩
    have hslots : (∃ j ∈ l, completesAt (advanceSlot s i).slots[j] a b = true) ↔ ∃ j ∈ l, completesAt s.slots[j] a b = true := by
      refine exists_congr fun j => and_congr_right fun hj => ?_
      rw [advanceSlot_actsOnSlot.other s i j fun e => hi (e ▸ hj)]
    rw [List.foldl_cons, hpixel', hpixel, htarget]
    simp only [hslots, List.exists_mem_cons_iff]
    by_cases hrest : ∃ j ∈ l, completesAt s.slots[j] a b = true
    · rw [if_pos hrest, if_pos (.inr hrest)]
    · rw [if_neg hrest]
      by_cases hfirst : completesAt s.slots[i] a b = true
      · rw [if_pos hfirst, if_pos (.inl hfirst)]
      · rw [if_neg hfirst, if_neg (not_or.mpr ⟨hfirst, hrest⟩)]

/-! ### The starts at a boundary -/

/-- R32, R46: a notice that an evaluation of starts may offer. -/
def isStartNotice (n : Notice) : Prop :=
  (∃ id slot band frames, n = .updateStarted id slot band frames) ∨
    ∃ id result, n = .updateEnded id result 0 0 ∧ (result = .modeAbsent ∨ result = .tempRange ∨ result = .unknownSource)

theorem startChecks_error {s : State} {x : Entry} {result : EndResult} (h : startChecks s x = .error result) :
    result = .modeAbsent ∨ result = .tempRange ∨ result = .unknownSource := by
  unfold startChecks at h
  split at h
  case h_2 => cases h; exact .inl rfl
  split at h
  · cases h; exact .inr (.inl rfl)
  split at h
  · cases h; exact .inr (.inl rfl)
  split at h
  · cases h; exact .inr (.inl rfl)
  split at h
  · cases h; exact .inr (.inr rfl)
  · cases h

/-- R32, R43: the two outcomes of an entry taken to start while a slot is FREE. -/
theorem startEntry_cases {s : State} {older younger : List Entry} {x : Entry} (h : startable s older x = true) :
    (∃ (i : Fin 8) (d : StartData), s.slots[i] = .free ∧
      startEntry older x younger s = arm i x d { s with queue := older ++ younger }) ∨
    ∃ result, (result = .modeAbsent ∨ result = .tempRange ∨ result = .unknownSource) ∧
      startEntry older x younger s = offerNotice (.updateEnded x.id result 0 0) { s with queue := older ++ younger } := by
  obtain ⟨i, hi⟩ := Option.ne_none_iff_exists'.mp (lowestFree_of_startable h)
  cases hchecks : startChecks s x with
  | ok d => exact .inl ⟨i, d, lowestFree_slot hi, startEntry_of_ok older younger hi hchecks⟩
  | error result =>
    exact .inr ⟨result, startChecks_error hchecks,
      startEntry_of_error older younger (lowestFree_of_startable h) hchecks⟩

/-- R32, R46, R168: the Notice Queue after notices of starts and of failed checks, and no other. -/
def StartNotices (before after : NoticeQueue) : Prop :=
  ∃ rest : List Notice, after = rest.foldl offerTo before ∧ ∀ n ∈ rest, isStartNotice n

theorem StartNotices.offer {before after : NoticeQueue} {n : Notice} (h : StartNotices before after) (hn : isStartNotice n) :
    StartNotices before (offerTo after n) := by
  obtain ⟨rest, rfl, hrest⟩ := h
  refine ⟨rest ++ [n], by rw [List.foldl_append]; rfl, fun m hm => ?_⟩
  obtain hm | hm := List.mem_append.mp hm
  · exact hrest m hm
  · rw [List.mem_singleton.mp hm]; exact hn

theorem evaluateStarts_notices (s : State) : StartNotices s.notices (evaluateStarts s).notices := by
  refine evaluateUpTo_induction (P := fun t => StartNotices s.notices t.notices) (fun t older younger x _ hx ht => ?_) _ s
    ⟨[], rfl, fun _ hn => (nomatch hn)⟩
  obtain ⟨i, d, -, e⟩ | ⟨result, hresult, e⟩ := startEntry_cases (younger := younger) hx
  · rw [e, arm_notices]
    split
    · exact ht.offer (.inl ⟨_, _, _, _, rfl⟩)
    · exact ht
  · rw [e]
    exact ht.offer (.inr ⟨_, _, rfl, hresult⟩)

/-- R44: an evaluation leaves Shown. -/
theorem evaluateStarts_shown (s : State) : (evaluateStarts s).shown = s.shown := by
  refine evaluateUpTo_induction (P := fun t => t.shown = s.shown) (fun t older younger x _ hx ht => ?_) _ s rfl
  obtain ⟨i, d, -, e⟩ | ⟨result, -, e⟩ := startEntry_cases (younger := younger) hx
  · rw [e, arm_shown]; exact ht
  · rw [e]; exact ht

/-- R44: what starts leave of a pixel: an ARMED slot covers it, or Target is as it was. -/
structure LatchedOnly (a b : Nat) (s t : State) : Prop where
  form : ImageForm t
  pending : t.pendingPlane = s.pendingPlane
  pixel : (∃ (i : Fin 8) (u : Update), t.slots[i] = .armed u ∧ rectContains u.rect.val a b = true) ∨
    planeAt t.target a b = planeAt s.target a b

/-- R44: arming a FREE slot latches under that slot alone. -/
theorem arm_latchedOnly {a b : Nat} {s t : State} {i : Fin 8} (x : Entry) (d : StartData)
    (hpending : planeWf 800 600 s.pendingPlane = true) (hfree : t.slots[i] = .free) (h : LatchedOnly a b s t) :
    LatchedOnly a b s (arm i x d t) := by
  have hpending' : planeWf 800 600 t.pendingPlane = true := by rw [h.pending]; exact hpending
  have hlatch := latchTarget_imageForm x.rect d.record.twoLevel hpending' h.form
  refine ⟨⟨by rw [arm_target]; exact hlatch.target, by rw [arm_shown]; exact h.form.shown⟩,
    (congrArg DriveView.pending (driveView_arm i x d t)).trans h.pending, ?_⟩
  by_cases hin : rectContains x.rect.val a b = true
  · exact .inl ⟨i, _, arm_slot_same i x d t, hin⟩
  · obtain ⟨j, u, hj, hu⟩ | hsame := h.pixel
    · have hji : j ≠ i := fun e => by subst e; rw [hfree] at hj; cases hj
      exact .inl ⟨j, u, (arm_slot_other x d t hji).trans hj, hu⟩
    · refine .inr ?_
      rw [arm_target, planeAt_latchTarget t x.rect _ a b hpending' h.form.target, if_neg hin]
      exact hsame

/-- R44: an evaluation changes Target only under slots that it arms. -/
theorem evaluateStarts_latchedOnly (a b : Nat) {s : State} (hpending : planeWf 800 600 s.pendingPlane = true)
    (hform : ImageForm s) : LatchedOnly a b s (evaluateStarts s) := by
  refine evaluateUpTo_induction (P := LatchedOnly a b s) (fun t older younger x _ hx ht => ?_) _ s ⟨hform, rfl, .inr rfl⟩
  have hqueue : LatchedOnly a b s { t with queue := older ++ younger } :=
    ⟨⟨ht.form.target, ht.form.shown⟩, ht.pending, ht.pixel⟩
  obtain ⟨i, d, hfree, e⟩ | ⟨result, -, e⟩ := startEntry_cases (younger := younger) hx
  · rw [e]
    exact arm_latchedOnly x d hpending hfree hqueue
  · rw [e]
    exact ⟨⟨ht.form.target, ht.form.shown⟩, ht.pending, ht.pixel⟩

/-- R43, R63: arming a FREE slot raises the count of its bank with the slots that use it. -/
theorem arm_banksFollow {freed : BankId → Bool} {s t : State} {i : Fin 8} (x : Entry) (d : StartData)
    (hfree : t.slots[i] = .free) (h : BanksFollow freed s t) : BanksFollow freed s (arm i x d t) := by
  have hchange := slotsUsing_of_others (s := t) (t := arm i x d t) (i := i) fun j hj => arm_slot_other x d t hj
  have hslot : slotBank (arm i x d t).slots[i] = some d.bank := by rw [arm_slot_same]; rfl
  have hslot' : slotBank t.slots[i] = none := by rw [hfree]; rfl
  simp only [hslot, hslot'] at hchange
  intro c
  by_cases hc : c = d.bank
  · subst hc
    have hcount : slotsUsing (arm i x d t) d.bank = slotsUsing t d.bank + 1 := by simpa using (hchange d.bank).symm
    rw [arm_bank, hcount, h d.bank]
  · have hother : c = otherBank d.bank := by
      revert hc
      cases c <;> cases d.bank <;> simp [otherBank]
    have hcount : slotsUsing (arm i x d t) c = slotsUsing t c := by simpa [Ne.symm hc] using (hchange c).symm
    rw [hcount, ← h c, hother, arm_other_bank]

/-- R63: an evaluation of starts at the banks. -/
theorem evaluateStarts_banksFollow {freed : BankId → Bool} {s t : State} (h : BanksFollow freed s t) :
    BanksFollow freed s (evaluateStarts t) := by
  refine evaluateUpTo_induction (P := BanksFollow freed s) (fun v older younger x _ hx hv => ?_) _ t h
  obtain ⟨i, d, hfree, e⟩ | ⟨result, -, e⟩ := startEntry_cases (younger := younger) hx
  · rw [e]
    exact arm_banksFollow x d hfree hv
  · rw [e]
    exact hv

/-! ### The end of demand at a boundary -/

theorem driveFrame_params {s t : State} (h : driveFrame s t) : t.params = s.params := by rw [h]

theorem driveFrame_pendingPlane {s t : State} (h : driveFrame s t) : t.pendingPlane = s.pendingPlane := by rw [h]

/-- R99: of all the state the end of demand changes the rails and the Frame Timer alone. -/
theorem demandEndsInOn_eq (s : State) : demandEndsInOn s =
    { s with rails := (demandEndsInOn s).rails, frameTimer := (demandEndsInOn s).frameTimer } := by
  unfold demandEndsInOn
  dsimp only
  split <;> rfl

/-- R99, R108: of all the state the judgement of demand changes the rails and the Frame Timer alone. -/
theorem judgeDemandEnd_eq (s : State) : judgeDemandEnd s =
    { s with rails := (judgeDemandEnd s).rails, frameTimer := (judgeDemandEnd s).frameTimer } := by
  unfold judgeDemandEnd
  split
  · exact demandEndsInOn_eq s
  · rfl

theorem judgeDemandEnd_of_demand {s : State} (h : demand s = true) : judgeDemandEnd s = s :=
  if_neg fun hidle => by rw [hidle.2] at h; cases h

theorem judgeDemandEnd_of_idle {s : State} (hon : s.rails.state = .on) (h : demand s = false) :
    judgeDemandEnd s = demandEndsInOn s := if_pos ⟨hon, h⟩

theorem demandEndsInOn_frameTimer (s : State) : (demandEndsInOn s).frameTimer = .stopped := by
  unfold demandEndsInOn
  dsimp only
  split <;> rfl

/-- R99, R110: the rails once demand has ended. -/
theorem demandEndsInOn_rails (s : State) : (demandEndsInOn s).rails =
    if s.rails.fastFall = true ∨ s.params.holdTime = 0 then
      { Rails.reset with state := .falling, fallTimer := some s.params.fallTime }
    else { s.rails with state := .holding, holdTimer := some s.params.holdTime } := by
  unfold demandEndsInOn
  dsimp only
  split <;> rfl

theorem demandEndsInOn_rails_state (s : State) :
    (demandEndsInOn s).rails.state = .falling ∨ (demandEndsInOn s).rails.state = .holding := by
  rw [demandEndsInOn_rails]
  split
  · exact .inl rfl
  · exact .inr rfl

/-- R42, R108: the slots and the queue at a boundary, before demand is judged. -/
theorem deliverBoundary_eq (s : State) : deliverBoundary s = { evaluateStarts (advanceSlots s) with
    rails := (deliverBoundary s).rails, frameTimer := (deliverBoundary s).frameTimer } := by
  unfold deliverBoundary
  rw [judgeDemandEnd_eq]
  rfl

theorem deliverBoundary_bankAt (s : State) (bank : BankId) :
    bankAt (deliverBoundary s) bank = bankAt (evaluateStarts (advanceSlots s)) bank := by
  rw [deliverBoundary_eq]
  cases bank <;> rfl

theorem deliverBoundary_slots (s : State) : (deliverBoundary s).slots = (evaluateStarts (advanceSlots s)).slots := by
  rw [deliverBoundary_eq]

theorem exec_frameBoundary {s : State} {n : Nat} (h : s.frameTimer = .running n) :
    exec .frameBoundary s = .next (deliverBoundary s) := by
  show execFrameBoundary s = _
  unfold execFrameBoundary
  rw [h]

/-! ### A boundary in RUNNING -/

section
variable {s : State}

theorem advanceSlots_of_running (h : s.halt = .running) : advanceSlots s = slotNumbers.foldl advanceSlot s := by
  unfold advanceSlots
  rw [h]

/-- R47: the slots of a boundary in RUNNING advance, and only then an evaluation may arm into those that are FREE. -/
theorem deliverBoundary_slot (h : s.halt = .running) (i : Fin 8) :
    startsAt (advancedSlot s.slots[i]) (deliverBoundary s).slots[i] := by
  have hstarts := evaluateStarts_startsAt (advanceSlots s) i
  have hadvanced : (advanceSlots s).slots[i] = advancedSlot s.slots[i] := by
    rw [advanceSlots_of_running h]
    exact advanceSlot_actsOnSlot.all s i
  simp only [deliverBoundary_slots]
  rwa [hadvanced] at hstarts

theorem startsAt_of_driving {x : Slot} {u : Update} (h : startsAt (.driving u) x) : x = .driving u :=
  h.elim id fun hfree => (nomatch hfree.1)

theorem isDriving_of_startsAt_free {x : Slot} (h : startsAt .free x) : isDriving x = false := by
  obtain rfl | ⟨-, u, rfl, -⟩ := h <;> rfl

theorem advanceSlots_driveFrame_of_running (h : s.halt = .running) : driveFrame s (advanceSlots s) := by
  rw [advanceSlots_of_running h]
  exact driveFrame_foldl _ advanceSlot_driveFrame slotNumbers s

/-- R47: what a boundary in RUNNING leaves alone before demand is judged. -/
theorem boundary_driveFrame (h : s.halt = .running) : driveFrame s (evaluateStarts (advanceSlots s)) :=
  driveFrame_trans (advanceSlots_driveFrame_of_running h) (evaluateStarts_driveFrame _)

/-- R42, R99, R108: with demand left the next boundary is set. -/
theorem deliverBoundary_of_demand (h : s.halt = .running) (hdemand : demand (deliverBoundary s) = true) :
    (deliverBoundary s).frameTimer = .running s.params.frameRate ∧ (deliverBoundary s).rails = s.rails := by
  have hframe := boundary_driveFrame h
  have hleft : demand (scheduleBoundary (evaluateStarts (advanceSlots s))) = true :=
    (demand_congr (deliverBoundary_slots s)).symm.trans hdemand
  rw [deliverBoundary, judgeDemandEnd_of_demand hleft, scheduleBoundary_frameTimer, scheduleBoundary_rails,
    driveFrame_rails hframe, driveFrame_params hframe]
  exact ⟨rfl, rfl⟩

/-- R99, R108: without demand the frames stop and the rails leave ON. -/
theorem deliverBoundary_of_idle (h : s.halt = .running) (hon : s.rails.state = .on)
    (hdemand : demand (deliverBoundary s) = false) : (deliverBoundary s).frameTimer = .stopped ∧
      (deliverBoundary s).rails = if s.rails.fastFall = true ∨ s.params.holdTime = 0 then
        { Rails.reset with state := .falling, fallTimer := some s.params.fallTime }
      else { s.rails with state := .holding, holdTimer := some s.params.holdTime } := by
  have hframe := boundary_driveFrame h
  have hrails := driveFrame_rails hframe
  have hnone : demand (scheduleBoundary (evaluateStarts (advanceSlots s))) = false :=
    (demand_congr (deliverBoundary_slots s)).symm.trans hdemand
  rw [deliverBoundary, judgeDemandEnd_of_idle (by rw [scheduleBoundary_rails, hrails]; exact hon) hnone,
    demandEndsInOn_frameTimer, demandEndsInOn_rails, scheduleBoundary_rails, scheduleBoundary_params, hrails,
    driveFrame_params hframe]
  exact ⟨rfl, rfl⟩

/-- R51: Shown after a boundary in RUNNING: Target over the rectangles that complete. -/
theorem deliverBoundary_shown (h : s.halt = .running) (hform : ImageForm s) (a b : Nat) :
    planeAt (deliverBoundary s).shown a b =
      if ∃ i ∈ slotNumbers, completesAt s.slots[i] a b = true then planeAt s.target a b else planeAt s.shown a b := by
  obtain ⟨-, -, hpixel⟩ := foldl_advanceSlot_planes slotNumbers slotNumbers_nodup hform
  have hshown : (deliverBoundary s).shown = (evaluateStarts (advanceSlots s)).shown := by rw [deliverBoundary_eq]
  rw [hshown, evaluateStarts_shown, advanceSlots_of_running h, hpixel]

/-- R44, R51: Target after a boundary in RUNNING changes only under the slots armed at it. -/
theorem deliverBoundary_target (h : s.halt = .running) (hplanes : PlanesLaw s) (a b : Nat)
    (hclear : ∀ (i : Fin 8) (u : Update), (deliverBoundary s).slots[i] = .armed u → rectContains u.rect.val a b = false) :
    planeAt (deliverBoundary s).target a b = planeAt s.target a b := by
  obtain ⟨htarget, hform, -⟩ := foldl_advanceSlot_planes slotNumbers slotNumbers_nodup hplanes.imageForm
  rw [← advanceSlots_of_running h] at htarget hform
  have hpending : planeWf 800 600 (advanceSlots s).pendingPlane = true := by
    rw [driveFrame_pendingPlane (advanceSlots_driveFrame_of_running h)]
    exact hplanes.1
  have hsame : (deliverBoundary s).target = (evaluateStarts (advanceSlots s)).target := by rw [deliverBoundary_eq]
  simp only [deliverBoundary_slots] at hclear
  obtain ⟨i, u, hi, hin⟩ | hpixel := (evaluateStarts_latchedOnly a b hpending hform).pixel
  · rw [hclear i u hi] at hin
    cases hin
  · rw [hsame, hpixel, htarget]

/-- R51, R63, R77, R168: the notices and the banks after a boundary in RUNNING. -/
theorem deliverBoundary_ends (h : s.halt = .running) (hbank : BankLaw s) :
    StartNotices ((slotEndNotices atLastFrame .done s).foldl offerTo s.notices) (deliverBoundary s).notices ∧
      BanksFollow (fun bank => bankFreedBy atLastFrame s bank 7) s (deliverBoundary s) := by
  obtain ⟨hnotices, hbanks⟩ := advanceSlot_endsSlots.all hbank
  rw [← advanceSlots_of_running h] at hnotices hbanks
  have hstarts := evaluateStarts_notices (advanceSlots s)
  have hfollow := evaluateStarts_banksFollow hbanks
  have hsame : (deliverBoundary s).notices = (evaluateStarts (advanceSlots s)).notices := by rw [deliverBoundary_eq]
  rw [hnotices] at hstarts
  refine ⟨by rw [hsame]; exact hstarts, fun bank => ?_⟩
  rw [deliverBoundary_bankAt, slotsUsing, activeUpdates_congr (deliverBoundary_slots s)]
  exact hfollow bank

/-! ### A boundary in HALTING -/

theorem advanceSlots_of_halting (h : s.halt = .halting) : advanceSlots s = haltedIfIdle (abortAll .halted s) := by
  unfold advanceSlots
  rw [h]

/-- R55, R56: the slots at a boundary in HALTING abort and the halt ends. -/
theorem advanceSlots_haltEnds (h : s.halt = .halting) : HaltEnds (abortAll .halted s) (advanceSlots s) := by
  rw [advanceSlots_of_halting h]
  exact haltedIfIdle_ends ((driveFrame_halt (abortAll_driveFrame .halted s)).trans h) (demand_abortAll .halted s)

/-- R55, R56, R99: a boundary in HALTING starts nothing and ends the frames. -/
theorem deliverBoundary_of_halting (h : s.halt = .halting) (hon : s.rails.state = .on) :
    deliverBoundary s = demandEndsInOn (scheduleBoundary (advanceSlots s)) := by
  have hends := advanceSlots_haltEnds h
  have hbarred : (advanceSlots s).halt ≠ .running := by rw [hends.halt]; simp
  have hidle : demand (advanceSlots s) = false := by
    rw [demand_congr (slots_of_view hends.view)]
    exact demand_abortAll .halted s
  have hrails : (advanceSlots s).rails = s.rails := hends.rails.trans (driveFrame_rails (abortAll_driveFrame .halted s))
  rw [deliverBoundary, evaluateStarts_of_barred (.inl hbarred)]
  exact judgeDemandEnd_of_idle (by rw [scheduleBoundary_rails, hrails]; exact hon) hidle

/-- R55, R56: what a halt that ends once all slots have aborted leaves of the state before the aborts. -/
theorem HaltEnds.after_aborts {before : NoticeQueue} {v w : State} (hends : HaltEnds v w) (hframe : driveFrame s v)
    (hqueue : v.queue = s.queue) (haborted : SlotsAborted .halted before s v) : SlotsAborted .halted before s w ∧
    w.halt = .halted ∧ w.queue = s.queue ∧ w.link = (finishWork .halt .ok [] s).link ∧
    w.pendingPlane = s.pendingPlane ∧ w.params = s.params :=
  ⟨haborted.congr hends.view hends.notices hends.banks, hends.halt, hends.queue.trans hqueue,
    hends.link.trans (finishWork_link_congr _ _ _ (driveFrame_link hframe)),
    (congrArg DriveView.pending hends.view).trans (driveFrame_pendingPlane hframe), hends.params.trans (driveFrame_params hframe)⟩

/-- R99: the end of demand, after the next boundary was set, is about the rails and the Frame Timer alone. -/
theorem demandEndsInOn_scheduleBoundary_eq (v : State) : demandEndsInOn (scheduleBoundary v) = { v with
    rails := (demandEndsInOn (scheduleBoundary v)).rails
    frameTimer := (demandEndsInOn (scheduleBoundary v)).frameTimer } := by
  rw [demandEndsInOn_eq]
  rfl

theorem SlotsAborted.demandEnds {result : EndResult} {before : NoticeQueue} {s v : State}
    (h : SlotsAborted result before s v) : SlotsAborted result before s (demandEndsInOn (scheduleBoundary v)) := by
  rw [demandEndsInOn_scheduleBoundary_eq]
  exact h.congr rfl rfl fun bank => by cases bank <;> rfl

/-! ### The obligation -/

/-- R47: each slot at a boundary in RUNNING. -/
theorem deliverBoundary_slot_cases (h : s.halt = .running) (i : Fin 8) (u : Update) :
    (s.slots[i] = .driving u → u.index < u.frames →
      (deliverBoundary s).slots[i] = .driving { u with index := u.index + 1 }) ∧
    (s.slots[i] = .driving u → u.index = u.frames → isDriving (deliverBoundary s).slots[i] = false) ∧
    (s.slots[i] = .armed u → (deliverBoundary s).slots[i] = .driving { u with index := 1 }) := by
  have hslot := deliverBoundary_slot h i
  refine ⟨fun hi hbelow => ?_, fun hi hlast => ?_, fun hi => ?_⟩
  · rw [hi, advancedSlot, if_neg hbelow.ne] at hslot
    exact startsAt_of_driving hslot
  · rw [hi, advancedSlot, if_pos hlast] at hslot
    exact isDriving_of_startsAt_free hslot
  · rw [hi] at hslot
    exact startsAt_of_driving hslot

/-- What is left alone by changes to the planes, the slots, the queue, the banks and the notices, and then to the rails
and the Frame Timer. -/
theorem driveFrame_rest {v t : State} {rails : Rails} {timer : FrameTimer} (hframe : driveFrame s v)
    (ht : t = { v with rails := rails, frameTimer := timer }) : t.halt = s.halt ∧ t.params = s.params ∧
    t.pendingPlane = s.pendingPlane ∧ t.load = s.load ∧ t.raster = s.raster ∧ t.temp = s.temp ∧ t.link = s.link := by
  rw [ht, hframe]
  exact ⟨rfl, rfl, rfl, rfl, rfl, rfl, rfl⟩

/-- R42, R47: what a boundary in RUNNING leaves alone. -/
theorem deliverBoundary_rest (h : s.halt = .running) : (deliverBoundary s).halt = .running ∧
    (deliverBoundary s).params = s.params ∧ (deliverBoundary s).pendingPlane = s.pendingPlane ∧
    (deliverBoundary s).load = s.load ∧ (deliverBoundary s).raster = s.raster ∧ (deliverBoundary s).temp = s.temp ∧
    (deliverBoundary s).link = s.link := by
  have hrest := driveFrame_rest (boundary_driveFrame h) (deliverBoundary_eq s)
  rwa [h] at hrest

/-- R47, R51: Shown after a boundary in RUNNING, in the words of the slots at their last frame. -/
theorem deliverBoundary_shown_cases (h : s.halt = .running) (hform : ImageForm s) (a b : Nat) :
    (∀ (i : Fin 8) (u : Update), s.slots[i] = .driving u → u.index = u.frames → rectContains u.rect.val a b = true →
      planeAt (deliverBoundary s).shown a b = planeAt s.target a b) ∧
    ((∀ (i : Fin 8) (u : Update), s.slots[i] = .driving u → u.index = u.frames → rectContains u.rect.val a b = false) →
      planeAt (deliverBoundary s).shown a b = planeAt s.shown a b) := by
  rw [deliverBoundary_shown h hform]
  refine ⟨fun i u hi hlast hin => if_pos ⟨i, mem_slotNumbers i, (completesAt_iff _ a b).mpr ⟨u, hi, hlast, hin⟩⟩,
    fun hclear => if_neg ?_⟩
  rintro ⟨i, -, hcompletes⟩
  obtain ⟨u, hi, hlast, hin⟩ := (completesAt_iff _ a b).mp hcompletes
  rw [hclear i u hi hlast] at hin
  cases hin

/-- R99, R110: the rails and the Frame Timer of a boundary in RUNNING without demand, by fast fall and HOLD_TIME. -/
theorem deliverBoundary_idle_cases (h : s.halt = .running) (hon : s.rails.state = .on)
    (hdemand : demand (deliverBoundary s) = false) : (deliverBoundary s).frameTimer = .stopped ∧
    ((s.rails.fastFall = true ∨ s.params.holdTime = 0) →
      (deliverBoundary s).rails = { Rails.reset with state := .falling, fallTimer := some s.params.fallTime }) ∧
    (s.rails.fastFall = false → 0 < s.params.holdTime →
      (deliverBoundary s).rails = { s.rails with state := .holding, holdTimer := some s.params.holdTime }) := by
  obtain ⟨htimer, hrails⟩ := deliverBoundary_of_idle h hon hdemand
  refine ⟨htimer, fun hfall => hrails.trans (if_pos hfall), fun hslow hhold => hrails.trans (if_neg ?_)⟩
  rintro (hfast | hzero)
  · rw [hslow] at hfast
    cases hfast
  · omega

/-- R55, R56, R99: what a boundary in HALTING leaves. -/
theorem deliverBoundary_of_halting_outcome (h : s.halt = .halting) (hon : s.rails.state = .on) :
    (∀ i : Fin 8, (deliverBoundary s).slots[i] = .free) ∧ (deliverBoundary s).halt = .halted ∧
    (deliverBoundary s).queue = s.queue ∧ (deliverBoundary s).frameTimer = .stopped ∧
    ((deliverBoundary s).rails.state = .falling ∨ (deliverBoundary s).rails.state = .holding) ∧
    (deliverBoundary s).link = (finishWork .halt .ok [] s).link ∧ (deliverBoundary s).pendingPlane = s.pendingPlane ∧
    (deliverBoundary s).params = s.params ∧ SlotsAborted .halted s.notices s (deliverBoundary s) := by
  obtain ⟨haborted, hhalt, hqueue, hlink, hpending, hparams⟩ := (advanceSlots_haltEnds h).after_aborts
    (abortAll_driveFrame .halted s) (abortAll_queue .halted s) (abortAll_slotsAborted .halted s)
  rw [deliverBoundary_of_halting h hon]
  generalize advanceSlots s = v at haborted hhalt hqueue hlink hpending hparams
  have heq := demandEndsInOn_scheduleBoundary_eq v
  have hended := haborted.demandEnds
  exact ⟨hended.1, (congrArg State.halt heq).trans hhalt, (congrArg State.queue heq).trans hqueue,
    demandEndsInOn_frameTimer _, demandEndsInOn_rails_state _, (congrArg State.link heq).trans hlink,
    (congrArg State.pendingPlane heq).trans hpending, (congrArg State.params heq).trans hparams, hended⟩

end

/-- Settles O31. In RUNNING the boundary is the completions and advances (`advancedSlot`), then an evaluation of starts,
then the judgement of demand; in HALTING it is the aborts of all slots, then the end of demand. -/
theorem boundariesAdvanceOrAbortTheSlots : Obligations.BoundariesAdvanceOrAbortTheSlots := by
  unfold Obligations.BoundariesAdvanceOrAbortTheSlots
  refine ⟨fun s n htimer hrunning hon => ?_, fun s n htimer hhalting hon =>
    ⟨_, exec_frameBoundary htimer, deliverBoundary_of_halting_outcome hhalting hon⟩⟩
  obtain ⟨hhalt, hparams, hpending, hload, hraster, htemp, hlink⟩ := deliverBoundary_rest hrunning
  refine ⟨_, exec_frameBoundary htimer, deliverBoundary_slot_cases hrunning, deliverBoundary_of_demand hrunning,
    deliverBoundary_idle_cases hrunning hon, hhalt, hparams, hpending, hload, hraster, htemp, hlink,
    fun hplanes _ a b _ _ => ?_, deliverBoundary_ends hrunning⟩
  obtain ⟨hcompleted, hkept⟩ := deliverBoundary_shown_cases hrunning hplanes.imageForm a b
  exact ⟨hcompleted, hkept, deliverBoundary_target hrunning hplanes a b⟩

end Sys2Proof.Machine
end

section
/-! The requests and the event of the Waveform Store (R64 to R69, R75, R78): the fields of each, and what each does in each state of
its bank. -/

namespace Sys2Proof.Machine

/-! ### The fields -/

theorem bankOf_eq_none {b : Byte} (h0 : b ≠ 0) (h1 : b ≠ 1) : bankOf b = none := (if_neg h0).trans (if_neg h1)

@[simp] theorem byteField_zero_cons (b : Byte) (rest : List Byte) : byteField (b :: rest) 0 = b := rfl

/-- R64: the field of a request that carries a bank alone. -/
theorem bankField_bankByte (bank : BankId) : bankField [bankByte bank] = .ok bank := by
  simp [bankField]

theorem bankField_of_length {p : List Byte} (h : p.length ≠ 1) : bankField p = .error .badLength := if_pos h

theorem bankField_of_badBank {b : Byte} (h0 : b ≠ 0) (h1 : b ≠ 1) : bankField [b] = .error .badField := by
  simp [bankField, bankOf_eq_none h0 h1]

theorem bankOpenFields_of_length {p : List Byte} (h : p.length ≠ 9) : bankOpenFields p = .error .badLength := if_pos h

theorem bankOpenFields_of_badBank {b : Byte} {rest : List Byte} (hlength : rest.length = 8) (h0 : b ≠ 0) (h1 : b ≠ 1) :
    bankOpenFields (b :: rest) = .error .badField := by
  simp [bankOpenFields, hlength, bankOf_eq_none h0 h1]

/-- R65: the declared size a Bank Open carries. -/
theorem fieldNat_bankOpen_size (b : Byte) {size : Nat} (crc : Nat) (h : size < 4294967296) :
    fieldNat (b :: (leBytes 4 size ++ leBytes 4 crc)) 1 4 = size := by
  simpa using fieldNat_append [b] (leBytes 4 crc) 4 size h

/-- R65: the declared CRC a Bank Open carries. -/
theorem fieldNat_bankOpen_crc (b : Byte) (size : Nat) {crc : Nat} (h : crc < 4294967296) :
    fieldNat (b :: (leBytes 4 size ++ leBytes 4 crc)) 5 4 = crc := by
  simpa using fieldNat_append (b :: leBytes 4 size) [] 4 crc h

/-- R65: the fields of a Bank Open whose declared size is in range. -/
theorem bankOpenFields_of_size (bank : BankId) {size : Nat} (crc : Nat) (hlow : 64 ≤ size) (hhigh : size ≤ 65536) :
    bankOpenFields (bankByte bank :: (leBytes 4 size ++ leBytes 4 crc)) = .ok (bank, Declared.mk size
      (BitVec.ofNat 32 (fieldNat (bankByte bank :: (leBytes 4 size ++ leBytes 4 crc)) 5 4))) := by
  have hsize := fieldNat_bankOpen_size (bankByte bank) crc (show size < 4294967296 by omega)
  have hrange : ¬ (size < 64 ∨ 65536 < size) := by omega
  simp [bankOpenFields, hsize, hrange]

theorem bankOpenFields_of_badSize (bank : BankId) {size : Nat} (crc : Nat) (h : size < 4294967296)
    (hrange : size < 64 ∨ 65536 < size) :
    bankOpenFields (bankByte bank :: (leBytes 4 size ++ leBytes 4 crc)) = .error .badField := by
  simp [bankOpenFields, fieldNat_bankOpen_size (bankByte bank) crc h, hrange]

/-- R65: a Bank Open that passes its field checks declares a size in range. -/
theorem size_of_bankOpenFields {p : List Byte} {bank : BankId} {d : Declared} (h : bankOpenFields p = .ok (bank, d)) :
    64 ≤ d.size ∧ d.size ≤ 65536 := by
  unfold bankOpenFields at h
  split at h
  · cases h
  split at h
  · cases h
  split at h
  · cases h
  · cases h
    dsimp only
    omega

theorem bankDataFields_of_length {p : List Byte} (h : p.length < 6 ∨ 1021 < p.length) :
    bankDataFields p = .error .badLength := if_pos h

section
variable {b : Byte} {rest : List Byte}

theorem bankDataFields_of_badBank (hlow : 5 ≤ rest.length) (hhigh : rest.length ≤ 1020) (h0 : b ≠ 0) (h1 : b ≠ 1) :
    bankDataFields (b :: rest) = .error .badField := by
  have hlength : ¬ (rest.length + 1 < 6 ∨ 1021 < rest.length + 1) := by omega
  simp only [bankDataFields, List.length_cons, hlength, if_false, byteField_zero_cons, bankOf_eq_none h0 h1]

theorem bankDataFields_of_bank (bank : BankId) (hlow : 5 ≤ rest.length) (hhigh : rest.length ≤ 1020) :
    bankDataFields (bankByte bank :: rest) =
      .ok (bank, fieldNat (bankByte bank :: rest) 1 4, (bankByte bank :: rest).drop 5) := by
  have hlength : ¬ (rest.length + 1 < 6 ∨ 1021 < rest.length + 1) := by omega
  simp only [bankDataFields, List.length_cons, hlength, if_false, byteField_zero_cons, bankOf_bankByte]

end

/-- R66: the fields of a Bank Data. -/
theorem bankDataFields_of_data (bank : BankId) {offset : Nat} {bytes : List Byte} (h : offset < 4294967296)
    (hdata : bytes ≠ []) (hlength : bytes.length ≤ 1016) :
    bankDataFields (bankByte bank :: (leBytes 4 offset ++ bytes)) = .ok (bank, offset, bytes) := by
  have hpositive := List.length_pos_iff.mpr hdata
  have hoffset : fieldNat (bankByte bank :: (leBytes 4 offset ++ bytes)) 1 4 = offset := by
    simpa using fieldNat_append [bankByte bank] bytes 4 offset h
  rw [bankDataFields_of_bank bank (by simp; omega) (by simp; omega), hoffset, List.drop_succ_cons,
    List.drop_left' (leBytes_length 4 offset)]

/-! ### Bank Open -/

section
variable {s : State} {r : Request} {bank : BankId}

theorem setBank_self (bank : BankId) (s : State) : setBank bank (bankAt s bank) s = s := by cases bank <;> rfl

theorem exec_bankOpen (h : takes s .bankOpen r) : exec .bankOpen s = .next (openBank r s) :=
  congrArg Host.Outcome.next (dispatch_of_takes openBank h)

theorem openBank_of_error {st : Status} (h : bankOpenFields r.payload = .error st) :
    openBank r s = answerEntry r st [] .nothing s := by
  rw [openBank, h]

/-- R65: a Bank Open is taken in EMPTY, LOADING and LOADED. -/
theorem openBank_opens {d : Declared} (h : bankOpenFields r.payload = .ok (bank, d))
    (hstate : (bankAt s bank).state = .empty ∨ (bankAt s bank).state = .loading ∨ (bankAt s bank).state = .loaded) :
    openBank r s = answerEntry r .ok [] .nothing (setBank bank (openedBank d (bankAt s bank)) s) := by
  rw [openBank, h]
  obtain e | e | e := hstate <;> simp only [e]

theorem openBank_wrongState {d : Declared} (h : bankOpenFields r.payload = .ok (bank, d))
    (hstate : ¬ ((bankAt s bank).state = .empty ∨ (bankAt s bank).state = .loading ∨ (bankAt s bank).state = .loaded)) :
    openBank r s = answerEntry r .wrongState [] .nothing s := by
  rw [openBank, h]
  cases e : (bankAt s bank).state <;> simp_all

/-! ### Bank Data -/

theorem exec_bankData (h : takes s .bankData r) : exec .bankData s = .next (storeBankData r s) :=
  congrArg Host.Outcome.next (dispatch_of_takes storeBankData h)

theorem storeBankData_of_error {st : Status} (h : bankDataFields r.payload = .error st) :
    storeBankData r s = answerEntry r st [] .nothing s := by
  rw [storeBankData, h]

section
variable {offset : Nat} {bytes : List Byte}

theorem storeBankData_wrongState (h : bankDataFields r.payload = .ok (bank, offset, bytes))
    (hstate : (bankAt s bank).state ≠ .loading) : storeBankData r s = answerEntry r .wrongState [] .nothing s := by
  rw [storeBankData, h]
  cases e : (bankAt s bank).state <;> simp_all

/-- R66: a Bank Data in LOADING. -/
theorem storeBankData_loading (h : bankDataFields r.payload = .ok (bank, offset, bytes))
    (hstate : (bankAt s bank).state = .loading) : storeBankData r s =
      answerEntry r (bankWithData offset bytes (bankAt s bank)).1
        (receivedField (bankWithData offset bytes (bankAt s bank)).2) .nothing
        (setBank bank (bankWithData offset bytes (bankAt s bank)).2 s) := by
  rw [storeBankData, h]
  simp only [hstate]

end

/-- R66: the bank after a Bank Data: as it was, or with the data where they fit. -/
theorem bankWithData_cases (offset : Nat) (bytes : List Byte) (v : Bank) :
    (bankWithData offset bytes v).2 = v ∨ v.contents.length + bytes.length ≤ declaredSize v ∧
      (bankWithData offset bytes v).2 = { v with contents := v.contents ++ bytes } := by
  unfold bankWithData
  split
  · exact .inl rfl
  · split
    · exact .inl rfl
    · exact .inr ⟨by omega, rfl⟩

/-! ### Bank Verify -/

theorem exec_bankVerify (h : takes s .bankVerify r) : exec .bankVerify s = .next (beginVerify r s) :=
  congrArg Host.Outcome.next (dispatch_of_takes beginVerify h)

theorem beginVerify_of_error {st : Status} (h : bankField r.payload = .error st) :
    beginVerify r s = answerEntry r st [] .nothing s := by
  rw [beginVerify, h]

theorem beginVerify_wrongState (h : bankField r.payload = .ok bank) (hstate : (bankAt s bank).state ≠ .loading) :
    beginVerify r s = answerEntry r .wrongState [] .nothing s := by
  rw [beginVerify, h]
  cases e : (bankAt s bank).state <;> simp_all

/-- R67: a Bank Verify in LOADING. -/
theorem beginVerify_loading (h : bankField r.payload = .ok bank) (hstate : (bankAt s bank).state = .loading) :
    beginVerify r s = if (bankAt s bank).contents.length < declaredSize (bankAt s bank) then answerEntry r .size [] .nothing s
      else deferEntry (.verify bank) (setBank bank { bankAt s bank with state := .verifying } s) := by
  rw [beginVerify, h]
  simp only [hstate]

/-! ### Bank Activate -/

theorem exec_bankActivate (h : takes s .bankActivate r) : exec .bankActivate s = .next (takeActivate r s) :=
  congrArg Host.Outcome.next (dispatch_of_takes takeActivate h)

theorem takeActivate_of_error {st : Status} (h : bankField r.payload = .error st) :
    takeActivate r s = answerEntry r st [] .nothing s := by
  rw [takeActivate, h]

theorem takeActivate_wrongState (h : bankField r.payload = .ok bank)
    (hstate : (bankAt s bank).state = .empty ∨ (bankAt s bank).state = .loading ∨ (bankAt s bank).state = .verifying) :
    takeActivate r s = answerEntry r .wrongState [] .nothing s := by
  rw [takeActivate, h]
  obtain e | e | e := hstate <;> simp only [e]

theorem takeActivate_active (h : bankField r.payload = .ok bank) (hstate : (bankAt s bank).state = .active) :
    takeActivate r s = answerEntry r .ok [] .nothing s := by
  rw [takeActivate, h]
  simp only [hstate]

/-- R75: a Bank Activate in LOADED and RETIRING. -/
theorem takeActivate_activates (h : bankField r.payload = .ok bank)
    (hstate : (bankAt s bank).state = .loaded ∨ (bankAt s bank).state = .retiring) :
    takeActivate r s = answerEntry r .ok [] .nothing (activateBank bank s) := by
  rw [takeActivate, h]
  obtain e | e := hstate <;> simp only [e]

/-- R75: the other bank changes only when it is ACTIVE. -/
theorem displacedBank_eq (v : Bank) : displacedBank v =
    if v.state = .active then { v with state := if 0 < v.refCount then .retiring else .loaded } else v := by
  unfold displacedBank
  cases e : v.state <;> simp only [reduceCtorEq, if_false, if_true]
  split <;> rfl

theorem bankAt_activateBank (bank : BankId) (s : State) :
    bankAt (activateBank bank s) bank = { bankAt s bank with state := .active } ∧
      bankAt (activateBank bank s) (otherBank bank) = displacedBank (bankAt s (otherBank bank)) := by
  cases bank <;> exact ⟨rfl, rfl⟩

/-! ### Bank Erase -/

theorem exec_bankErase (h : takes s .bankErase r) : exec .bankErase s = .next (eraseBank r s) :=
  congrArg Host.Outcome.next (dispatch_of_takes eraseBank h)

theorem eraseBank_of_error {st : Status} (h : bankField r.payload = .error st) :
    eraseBank r s = answerEntry r st [] .nothing s := by
  rw [eraseBank, h]

theorem eraseBank_empty (h : bankField r.payload = .ok bank) (hstate : (bankAt s bank).state = .empty) :
    eraseBank r s = answerEntry r .ok [] .nothing s := by
  rw [eraseBank, h]
  simp only [hstate]

/-- R78: a Bank Erase in LOADING and LOADED. -/
theorem eraseBank_erases (h : bankField r.payload = .ok bank)
    (hstate : (bankAt s bank).state = .loading ∨ (bankAt s bank).state = .loaded) :
    eraseBank r s = answerEntry r .ok [] .nothing (setBank bank (erasedBank (bankAt s bank)) s) := by
  rw [eraseBank, h]
  obtain e | e := hstate <;> simp only [e]

theorem eraseBank_wrongState (h : bankField r.payload = .ok bank) (hstate : (bankAt s bank).state = .verifying ∨
    (bankAt s bank).state = .active ∨ (bankAt s bank).state = .retiring) :
    eraseBank r s = answerEntry r .wrongState [] .nothing s := by
  rw [eraseBank, h]
  obtain e | e | e := hstate <;> simp only [e]

/-! ### The end of a verification -/

/-- R69: the end of a verification. -/
theorem exec_verificationComplete (h : (bankAt s bank).state = .verifying) : exec (.verificationComplete bank) s = .next
    (finishWork (.verify bank) (verifyOutcome (bankAt s bank)).1 (verifyOutcome (bankAt s bank)).2.1
      (setBank bank (verifyOutcome (bankAt s bank)).2.2 s)) := by
  show execVerificationComplete bank s = _
  rw [execVerificationComplete, if_pos h]
  rfl

section
variable {v : Bank} {d : Declared}

theorem verifyOutcome_of_crcMismatch (hd : v.declared = some d) (h : d.crc ≠ crc32 v.contents) : verifyOutcome v =
    (.crcMismatch, leBytes 4 (crc32 v.contents).toNat, { Bank.none with refCount := v.refCount }) := by
  simp [verifyOutcome, declaredCrc, hd, h]

theorem verifyOutcome_of_image {img : BankImage} (hd : v.declared = some d) (h : d.crc = crc32 v.contents)
    (himage : walkImage v.contents = .ok img) : verifyOutcome v = (.ok, [], { v with state := .loaded }) := by
  simp [verifyOutcome, declaredCrc, hd, h, himage]

theorem verifyOutcome_of_format {detail : Detail} {offset : Nat} (hd : v.declared = some d) (h : d.crc = crc32 v.contents)
    (hwalk : walkImage v.contents = .error (detail, offset)) : verifyOutcome v =
      (.format, detailByte detail :: leBytes 4 offset, { Bank.none with refCount := v.refCount }) := by
  simp [verifyOutcome, declaredCrc, hd, h, hwalk]

end

/-- R69: the bank after a verification: LOADED with the CRC and the structure agreed, or EMPTY. -/
theorem verifyOutcome_bank_cases (v : Bank) : (∃ d img, v.declared = some d ∧ d.crc = crc32 v.contents ∧
    walkImage v.contents = .ok img ∧ (verifyOutcome v).2.2 = { v with state := .loaded }) ∨
      (verifyOutcome v).2.2 = erasedBank v := by
  unfold verifyOutcome
  split
  · rename_i hcrc
    obtain ⟨d, hd, hdcrc⟩ := Option.map_eq_some_iff.mp hcrc
    split
    · rename_i img himage
      exact .inl ⟨d, img, hd, hdcrc, himage, rfl⟩
    · exact .inr rfl
  · exact .inr rfl

end

end Sys2Proof.Machine
end

section
/-! Bank Open, Bank Data, Bank Verify, Bank Activate and Bank Erase in each bank state, and the three outcomes of verification (R64 to
R69, R75, R78). -/

namespace Sys2Proof.Machine

section
variable {s : State} {r : Request} {bank : BankId}

/-- R66: the three outcomes of a Bank Data in LOADING, by its offset and its length. -/
theorem storeBankData_outcomes {offset : Nat} {bytes : List Byte} {d : Declared}
    (h : bankDataFields r.payload = .ok (bank, offset, bytes)) (hstate : (bankAt s bank).state = .loading)
    (hdeclared : (bankAt s bank).declared = some d) :
    (offset ≠ (bankAt s bank).contents.length → storeBankData r s =
      answerEntry r .outOfOrder (leBytes 4 (bankAt s bank).contents.length) .nothing s) ∧
    (offset = (bankAt s bank).contents.length → d.size < offset + bytes.length → storeBankData r s =
      answerEntry r .overrun (leBytes 4 (bankAt s bank).contents.length) .nothing s) ∧
    (offset = (bankAt s bank).contents.length → offset + bytes.length ≤ d.size → storeBankData r s =
      answerEntry r .ok (leBytes 4 (offset + bytes.length)) .nothing
        (setBank bank { bankAt s bank with contents := (bankAt s bank).contents ++ bytes } s)) := by
  have hsize : declaredSize (bankAt s bank) = d.size := by rw [declaredSize, hdeclared]
  rw [storeBankData_loading h hstate, bankWithData, hsize]
  refine ⟨fun horder => ?_, fun horder hover => ?_, fun horder hfits => ?_⟩
  · simp only [if_pos horder, setBank_self, receivedField]
  · simp only [if_neg (not_not.mpr horder), if_pos hover, setBank_self, receivedField]
  · subst horder
    simp only [ne_eq, not_true, if_false, if_neg (Nat.not_lt.mpr hfits), receivedField, List.length_append]

/-- R67: the two outcomes of a Bank Verify in LOADING. -/
theorem beginVerify_outcomes {d : Declared} (h : bankField r.payload = .ok bank) (hstate : (bankAt s bank).state = .loading)
    (hdeclared : (bankAt s bank).declared = some d) :
    ((bankAt s bank).contents.length < d.size → beginVerify r s = answerEntry r .size [] .nothing s) ∧
    (d.size ≤ (bankAt s bank).contents.length → beginVerify r s =
      deferEntry (.verify bank) (setBank bank { bankAt s bank with state := .verifying } s)) := by
  have hsize : declaredSize (bankAt s bank) = d.size := by rw [declaredSize, hdeclared]
  rw [beginVerify_loading h hstate, hsize]
  exact ⟨fun hshort => if_pos hshort, fun hfull => if_neg (Nat.not_lt.mpr hfull)⟩

/-- R65: a Bank Open in VERIFYING, ACTIVE or RETIRING is in none of the states that take it. -/
theorem not_opens_of_busy {state : BankState} (h : state = .verifying ∨ state = .active ∨ state = .retiring) :
    ¬ (state = .empty ∨ state = .loading ∨ state = .loaded) := by
  obtain rfl | rfl | rfl := h <;> decide

/-- R65: a Bank Open taken leaves its bank LOADING with the declared size and CRC. -/
theorem openBank_declares {size crc : Nat} (hp : r.payload = bankByte bank :: (leBytes 4 size ++ leBytes 4 crc))
    (hcrc : crc < 4294967296) (hlow : 64 ≤ size) (hhigh : size ≤ 65536)
    (hstate : (bankAt s bank).state = .empty ∨ (bankAt s bank).state = .loading ∨ (bankAt s bank).state = .loaded) :
    openBank r s = answerEntry r .ok [] .nothing
      (setBank bank (openedBank { size := size, crc := BitVec.ofNat 32 crc } (bankAt s bank)) s) := by
  have hfields := bankOpenFields_of_size bank crc hlow hhigh
  rw [fieldNat_bankOpen_crc _ size hcrc, ← hp] at hfields
  exact openBank_opens hfields hstate

end

/-- Settles O34: the accepting states, the refusing states and the refused fields of each request. -/
theorem bankRequestsFollowTheState : Obligations.BankRequestsFollowTheState := by
  refine ⟨fun s r bank => ?_, fun s r bank => ?_, fun s r => ⟨fun htakes hlength => ?_, fun htakes hlength => ?_,
    fun htakes hlength => ?_, fun b rest hp h0 h1 => ?_⟩⟩
  · refine ⟨fun size crc htakes hp hcrc hlow hhigh hstate => ?_,
      fun offset bytes d htakes hp hoffset hdata hlength hstate hdeclared => ?_,
      fun d htakes hp hstate hdeclared => ?_, fun htakes hp => ?_⟩
    · rw [exec_bankOpen htakes, openBank_declares hp hcrc hlow hhigh hstate]
      rfl
    · rw [exec_bankData htakes]
      simp only [Host.Outcome.next.injEq]
      exact storeBankData_outcomes (by rw [hp]; exact bankDataFields_of_data bank hoffset hdata hlength) hstate hdeclared
    · rw [exec_bankVerify htakes]
      simp only [Host.Outcome.next.injEq]
      exact beginVerify_outcomes (by rw [hp, bankField_bankByte]) hstate hdeclared
    · have hfields : bankField r.payload = .ok bank := by rw [hp, bankField_bankByte]
      rw [exec_bankErase htakes]
      exact ⟨fun hstate => by rw [eraseBank_empty hfields hstate],
        fun hstate => by rw [eraseBank_erases hfields hstate]; rfl⟩
  · refine ⟨fun size crc htakes hp hlow hhigh hstate => ?_, fun bytes htakes hp hlow hhigh hstate => ?_,
      fun htakes hp hstate => ?_, fun size crc htakes hp hsize hrange => ?_, fun htakes hlength => ?_,
      fun htakes hp hstate => ?_⟩
    · have hfields := bankOpenFields_of_size bank crc hlow hhigh
      rw [← hp] at hfields
      rw [exec_bankOpen htakes, openBank_wrongState hfields (not_opens_of_busy hstate)]
    · rw [exec_bankData htakes, storeBankData_wrongState (by rw [hp]; exact bankDataFields_of_bank bank hlow hhigh) hstate]
    · rw [exec_bankVerify htakes, beginVerify_wrongState (by rw [hp, bankField_bankByte]) hstate]
    · rw [exec_bankOpen htakes, openBank_of_error (by rw [hp]; exact bankOpenFields_of_badSize bank crc hsize hrange)]
    · rw [exec_bankData htakes, storeBankData_of_error (bankDataFields_of_length hlength)]
    · rw [exec_bankErase htakes, eraseBank_wrongState (by rw [hp, bankField_bankByte]) hstate]
  · rw [exec_bankOpen htakes, openBank_of_error (bankOpenFields_of_length hlength)]
  · rw [exec_bankVerify htakes, beginVerify_of_error (bankField_of_length hlength)]
  · rw [exec_bankErase htakes, eraseBank_of_error (bankField_of_length hlength)]
  · refine ⟨fun htakes hlength => ?_, fun htakes hlow hhigh => ?_, fun htakes hnil => ?_, fun htakes hnil => ?_⟩
    · rw [exec_bankOpen htakes, openBank_of_error (by rw [hp]; exact bankOpenFields_of_badBank hlength h0 h1)]
    · rw [exec_bankData htakes, storeBankData_of_error (by rw [hp]; exact bankDataFields_of_badBank hlow hhigh h0 h1)]
    · rw [exec_bankVerify htakes, beginVerify_of_error (by rw [hp, hnil]; exact bankField_of_badBank h0 h1)]
    · rw [exec_bankErase htakes, eraseBank_of_error (by rw [hp, hnil]; exact bankField_of_badBank h0 h1)]

/-- Settles O35: each state of a Bank Activate, and each outcome of the walk and the CRC-32 at the end of a verification. -/
theorem bankVerifiesAndActivates : Obligations.BankVerifiesAndActivates := by
  refine ⟨fun s r htakes => ⟨fun hlength => ?_, fun b hp h0 h1 => ?_⟩, fun s r bank htakes hp => ?_,
    fun s bank d hstate hdeclared => ?_⟩
  · rw [exec_bankActivate htakes, takeActivate_of_error (bankField_of_length hlength)]
  · rw [exec_bankActivate htakes, takeActivate_of_error (by rw [hp]; exact bankField_of_badBank h0 h1)]
  · have hfields : bankField r.payload = .ok bank := by rw [hp, bankField_bankByte]
    rw [exec_bankActivate htakes]
    refine ⟨fun hstate => ?_, fun hstate => ?_, fun hstate => ?_⟩
    · rw [takeActivate_wrongState hfields hstate]
    · rw [takeActivate_active hfields hstate]
    · rw [takeActivate_activates hfields hstate, activateBank, displacedBank_eq]
  · rw [exec_verificationComplete hstate]
    refine ⟨fun hcrc => ?_, fun hcrc => ⟨fun img himage => ?_, fun detail offset hwalk => ?_⟩⟩
    · rw [verifyOutcome_of_crcMismatch hdeclared hcrc]
      rfl
    · rw [verifyOutcome_of_image hdeclared hcrc himage]
    · rw [verifyOutcome_of_format hdeclared hcrc hwalk]
      rfl

end Sys2Proof.Machine
end

section
/-! The structural walk and the layout of an image (R70 to R74, R193): each part of the walk reads back the value whose bytes it finds,
and an image read is its bytes and keeps the rules. -/

namespace Sys2Proof.Machine

/-! ### Bytes -/

theorem walkByte_cons (b : Byte) (offset : Nat) (rest : List Byte) :
    walkByte { offset := offset, rest := b :: rest } = .ok (b, { offset := offset + 1, rest := rest }) := rfl

/-- R74: a byte that its check finds nothing wrong with. -/
theorem walkChecked_cons {judge : Byte → Option Detail} {b : Byte} (h : judge b = none) (offset : Nat) (rest : List Byte) :
    walkChecked judge { offset := offset, rest := b :: rest } = .ok (b, { offset := offset + 1, rest := rest }) := by
  simp only [walkChecked, walkByte_cons, h]

theorem byteOf_ne_zero {n : Nat} (hlow : 1 ≤ n) (hhigh : n ≤ 255) : byteOf n ≠ 0 := by
  intro h
  have hn := byteOf_toNat n (by omega)
  rw [h] at hn
  exact absurd hn.symm (Nat.ne_of_gt hlow)

/-- R193: the drive whose byte is given. -/
theorem driveOf_driveByte (d : Drive) : driveOf (driveByte d) = some d := by cases d <;> rfl

/-- Chapter 12: a temperature in the range of R71 stands in its byte. -/
theorem signedByte_temperatureByte {t : Int} (hlow : -40 ≤ t) (hhigh : t ≤ 85) : signedByte (temperatureByte t) = t := by
  rw [signedByte, temperatureByte, BitVec.toInt_ofInt]
  exact Int.bmod_eq_of_le (by omega) (by omega)

/-! ### Phase lists and tables -/

/-- A part of the walk reads a value from its bytes, wherever they stand and whatever follows them. -/
def reads {α : Type} (walk : Cursor → Walk α) (bytes : List Byte) (value : α) : Prop :=
  ∀ (offset : Nat) (rest : List Byte), walk { offset := offset, rest := bytes ++ rest } =
    .ok (value, { offset := offset + bytes.length, rest := rest })

/-- R193: the bytes of the steps of a phase list. -/
def stepsBytes (steps : List PhaseStep) : List Byte := steps.flatMap fun x => [driveByte x.drive, byteOf x.frames]

theorem stepsBytes_cons (x : PhaseStep) (steps : List PhaseStep) :
    stepsBytes (x :: steps) = driveByte x.drive :: byteOf x.frames :: stepsBytes steps := rfl

theorem phaseListBytes_eq (steps : List PhaseStep) : phaseListBytes steps = byteOf steps.length :: stepsBytes steps := rfl

theorem walkSteps_reads {steps : List PhaseStep} (h : ∀ x ∈ steps, 1 ≤ x.frames ∧ x.frames ≤ 255) :
    reads (walkSteps steps.length) (stepsBytes steps) steps := by
  induction steps with
  | nil => exact fun _ _ => rfl
  | cons x steps ih =>
    intro offset rest
    obtain ⟨⟨hlow, hhigh⟩, hsteps⟩ := List.forall_mem_cons.mp h
    have hlength := walkChecked_cons (judge := fun b => if b = 0 then some .stepLength else none)
      (if_neg (byteOf_ne_zero hlow hhigh)) (offset + 1) (stepsBytes steps ++ rest)
    simp only [stepsBytes_cons, List.cons_append, List.length_cons, walkSteps, walkByte_cons, driveOf_driveByte, hlength,
      ih hsteps _ rest, byteOf_toNat x.frames (by omega)]
    rw [Nat.add_assoc offset 1 1, Nat.add_assoc, Nat.add_comm (1 + 1)]

/-- R73: a phase list that keeps the rules. -/
theorem walkPhaseList_reads {frames : Nat} {steps : List PhaseStep} (h : phaseListSound frames steps) :
    reads (walkPhaseList frames) (phaseListBytes steps) steps := by
  intro offset rest
  obtain ⟨hlow, hhigh, hsteps, hsum⟩ := h
  have hcount := byteOf_toNat steps.length (by omega)
  have hjudge : ¬ (byteOf steps.length = 0 ∨ 8 < (byteOf steps.length).toNat) := by
    rw [hcount]
    exact not_or.mpr ⟨byteOf_ne_zero hlow (by omega), by omega⟩
  have hbyte := walkChecked_cons (judge := fun b => if b = 0 ∨ 8 < b.toNat then some .stepCount else none)
    (if_neg hjudge) offset (stepsBytes steps ++ rest)
  simp only [phaseListBytes_eq, List.cons_append, List.length_cons, walkPhaseList, hbyte, hcount,
    walkSteps_reads hsteps _ rest, if_neg (Nat.not_lt.mpr hsum)]
  rw [Nat.add_assoc, Nat.add_comm 1]

theorem walkTable_reads {frames : Nat} {lists : List (List PhaseStep)} (h : ∀ steps ∈ lists, phaseListSound frames steps) :
    reads (walkTable frames lists.length) (lists.flatMap phaseListBytes) lists := by
  induction lists with
  | nil => exact fun _ _ => rfl
  | cons steps lists ih =>
    intro offset rest
    obtain ⟨hsteps, hlists⟩ := List.forall_mem_cons.mp h
    simp only [List.flatMap_cons, List.append_assoc, List.length_append, List.length_cons, walkTable,
      walkPhaseList_reads hsteps _ _, ih hlists _ rest, Nat.add_assoc]

/-! ### Mode records -/

theorem walkFrameCounts_reads {counts : List Nat} (h : ∀ f ∈ counts, 1 ≤ f ∧ f ≤ 255) :
    reads (walkFrameCounts counts.length) (counts.map byteOf) counts := by
  induction counts with
  | nil => exact fun _ _ => rfl
  | cons f counts ih =>
    intro offset rest
    obtain ⟨⟨hlow, hhigh⟩, hcounts⟩ := List.forall_mem_cons.mp h
    have hbyte := walkChecked_cons (judge := fun b => if b = 0 then some .frameCount else none)
      (if_neg (byteOf_ne_zero hlow hhigh)) offset (counts.map byteOf ++ rest)
    simp only [List.map_cons, List.cons_append, List.length_cons, walkFrameCounts, hbyte, ih hcounts _ rest,
      byteOf_toNat f (by omega)]
    rw [Nat.add_assoc, Nat.add_comm 1]

/-- R72, R73: the transition tables of a mode record, each with its band's frame count. -/
theorem walkBands_reads {lists : Nat} {bands : List BandData}
    (h : ∀ b ∈ bands, b.table.length = lists ∧ ∀ steps ∈ b.table, phaseListSound b.frames steps) :
    reads (walkBands lists (bands.map (·.frames))) (bands.flatMap fun b => b.table.flatMap phaseListBytes) bands := by
  induction bands with
  | nil => exact fun _ _ => rfl
  | cons b bands ih =>
    intro offset rest
    obtain ⟨⟨hlength, hsound⟩, hbands⟩ := List.forall_mem_cons.mp h
    have htable := walkTable_reads hsound
    rw [hlength] at htable
    simp only [List.map_cons, List.flatMap_cons, List.append_assoc, List.length_append, walkBands, htable _ _,
      ih hbands _ rest, Nat.add_assoc]

theorem judgeModeId_eq_none {earlier : List Nat} {id : Nat} (hid : id ≤ 15) (hfresh : id ∉ earlier) :
    judgeModeId earlier (byteOf id) = none := by
  rw [judgeModeId, byteOf_toNat id (by omega), if_neg (Nat.not_lt.mpr hid), if_neg hfresh]

/-- R193: the level count of a mode record. -/
def levelCountByte (twoLevel : Bool) : Byte := if twoLevel then 2 else 16

theorem judge_levelCountByte (twoLevel : Bool) : (if levelCountByte twoLevel = 2 ∨ levelCountByte twoLevel = 16 then none
    else some Detail.levelCount) = none := by cases twoLevel <;> rfl

theorem levelCountByte_eq_two (twoLevel : Bool) : decide (levelCountByte twoLevel = 2) = twoLevel := by
  cases twoLevel <;> rfl

theorem judge_flagByte (flag : Bool) :
    (if flagByte flag = 0 ∨ flagByte flag = 1 then none else some Detail.rowFlag) = none := by cases flag <;> rfl

theorem flagByte_eq_one (flag : Bool) : decide (flagByte flag = 1) = flag := by cases flag <;> rfl

/-- R193: the bytes of a mode record, its three fields first. -/
theorem modeBytes_eq (m : ModeRecord) : modeBytes m =
    byteOf m.id :: levelCountByte m.twoLevel :: flagByte m.unknownRow :: ((m.bands.map (·.frames)).map byteOf ++
      m.bands.flatMap fun b => b.table.flatMap phaseListBytes) := by
  rw [List.map_map]
  rfl

/-- R72: a mode record that keeps the rules, with an id of its own. -/
theorem walkMode_reads {bandCount : Nat} {earlier : List Nat} {m : ModeRecord} (h : modeSound bandCount m)
    (hfresh : m.id ∉ earlier) : reads (walkMode bandCount earlier) (modeBytes m) m := by
  obtain ⟨id, twoLevel, unknownRow, bands⟩ := m
  obtain ⟨hid, hcount, hbands⟩ := h
  dsimp only at hid hcount hbands hfresh
  intro offset rest
  have hcounts : ∀ f ∈ bands.map (·.frames), 1 ≤ f ∧ f ≤ 255 := fun f hf => by
    obtain ⟨b, hb, rfl⟩ := List.mem_map.mp hf
    obtain ⟨hlow, hhigh, -, -⟩ := hbands b hb
    exact ⟨hlow, hhigh⟩
  have htables := walkBands_reads (lists := tableLists twoLevel unknownRow) (bands := bands) fun b hb => by
    obtain ⟨-, -, hlength, hsound⟩ := hbands b hb
    exact ⟨hlength, hsound⟩
  have hframes := walkFrameCounts_reads hcounts
  rw [List.length_map, hcount] at hframes
  have hidByte := walkChecked_cons (judgeModeId_eq_none hid hfresh)
  have hlevels := walkChecked_cons (judge := fun b => if b = 2 ∨ b = 16 then none else some .levelCount)
    (judge_levelCountByte twoLevel)
  have hflag := walkChecked_cons (judge := fun b => if b = 0 ∨ b = 1 then none else some .rowFlag)
    (judge_flagByte unknownRow)
  simp only [modeBytes_eq, List.cons_append, List.append_assoc, walkMode, hidByte, hlevels, hflag, hframes _ _,
    levelCountByte_eq_two, flagByte_eq_one, htables _ rest, byteOf_toNat id (by omega), List.length_cons, List.length_append]
  simp only [Except.ok.injEq, Prod.mk.injEq, Cursor.mk.injEq, true_and, and_true]
  omega

theorem walkModes_reads {bandCount : Nat} {earlier : List Nat} {modes : List ModeRecord}
    (h : ∀ m ∈ modes, modeSound bandCount m) (hnodup : (modes.map (·.id)).Nodup) (hfresh : ∀ m ∈ modes, m.id ∉ earlier) :
    reads (walkModes bandCount modes.length earlier) (modes.flatMap modeBytes) modes := by
  induction modes generalizing earlier with
  | nil => exact fun _ _ => rfl
  | cons m modes ih =>
    intro offset rest
    obtain ⟨hm, hmodes⟩ := List.forall_mem_cons.mp h
    obtain ⟨hmfresh, hothers⟩ := List.forall_mem_cons.mp hfresh
    obtain ⟨hmid, hids⟩ := List.nodup_cons.mp hnodup
    have htail := ih (earlier := m.id :: earlier) hmodes hids fun x hx hmem => by
      obtain hsame | hearlier := List.mem_cons.mp hmem
      · exact hmid (List.mem_map.mpr ⟨x, hx, hsame⟩)
      · exact hothers x hx hearlier
    simp only [List.flatMap_cons, List.append_assoc, List.length_append, List.length_cons, walkModes,
      walkMode_reads hm hmfresh _ _, htail _ rest, Nat.add_assoc]

/-! ### The band table -/

theorem judgeBound_eq_none {previous : Option Int} {t : Int} (hlow : -40 ≤ t) (hhigh : t ≤ 85)
    (hprevious : ∀ q, previous = some q → q < t) : judgeBound previous (temperatureByte t) = none := by
  have hrange : ¬ (t < -40 ∨ 85 < t) := by omega
  unfold judgeBound
  rw [signedByte_temperatureByte hlow hhigh, if_neg hrange]
  cases previous with
  | none => rfl
  | some q => exact if_neg (Int.not_le.mpr (hprevious q rfl))

/-- R71: strictly ascending bounds above the bound before them. -/
theorem walkBounds_reads {previous : Option Int} {bounds : List Int} (hrange : ∀ b ∈ bounds, -40 ≤ b ∧ b ≤ 85)
    (hsorted : bounds.Pairwise (· < ·)) (hprevious : ∀ q, previous = some q → ∀ b ∈ bounds, q < b) :
    reads (walkBounds bounds.length previous) (bounds.map temperatureByte) bounds := by
  induction bounds generalizing previous with
  | nil => exact fun _ _ => rfl
  | cons t bounds ih =>
    intro offset rest
    obtain ⟨⟨hlow, hhigh⟩, hranges⟩ := List.forall_mem_cons.mp hrange
    obtain ⟨hfirst, hothers⟩ := List.pairwise_cons.mp hsorted
    have hbyte := walkChecked_cons
      (judgeBound_eq_none hlow hhigh fun q hq => hprevious q hq t List.mem_cons_self) offset
      (bounds.map temperatureByte ++ rest)
    have htail := ih (previous := some t) hranges hothers fun q hq => by cases hq; exact hfirst
    simp only [List.map_cons, List.cons_append, List.length_cons, walkBounds, hbyte,
      signedByte_temperatureByte hlow hhigh, htail _ rest]
    rw [Nat.add_assoc, Nat.add_comm 1]

/-! ### Images -/

/-- R193: the bytes of an image, its header first. -/
theorem imageBytes_eq (img : BankImage) : imageBytes img = 1 :: byteOf img.bounds.length :: byteOf img.modes.length ::
    (img.bounds.map temperatureByte ++ img.modes.flatMap modeBytes) := rfl

/-- R74: a header count of 1 to `n` passes its check. -/
theorem judgeCount_eq_none {n count : Nat} (detail : Detail) (hlow : 1 ≤ count) (hhigh : count ≤ n) (hn : n ≤ 255) :
    (if byteOf count = 0 ∨ n < (byteOf count).toNat then some detail else none) = none := by
  rw [byteOf_toNat count (by omega)]
  exact if_neg (not_or.mpr ⟨byteOf_ne_zero hlow (by omega), by omega⟩)

/-- R70 to R74: the walk of an image that keeps the rules. -/
theorem walkImage_imageBytes {img : BankImage} (h : imageSound img) : walkImage (imageBytes img) = .ok img := by
  obtain ⟨hbands, hbands8, hmodes, hmodes16, hrange, hsorted, hids, hsound⟩ := h
  have hbandByte := walkChecked_cons (judge := fun b => if b = 0 ∨ 8 < b.toNat then some .bandCount else none)
    (judgeCount_eq_none .bandCount hbands hbands8 (by decide))
  have hmodeByte := walkChecked_cons (judge := fun b => if b = 0 ∨ 16 < b.toNat then some .modeCount else none)
    (judgeCount_eq_none .modeCount hmodes hmodes16 (by decide))
  have hversion := walkChecked_cons (judge := fun b => if b = 1 then none else some .version) (b := 1) (if_pos rfl)
  have hbounds := walkBounds_reads (previous := none) hrange hsorted fun q hq => (nomatch hq)
  have hrecords := walkModes_reads (earlier := []) hsound hids (fun _ _ => List.not_mem_nil) (rest := [])
  rw [List.append_nil] at hrecords
  simp only [imageBytes_eq, walkImage, hversion, hbandByte, hmodeByte, byteOf_toNat img.bounds.length (by omega),
    byteOf_toNat img.modes.length (by omega), hbounds _ _, hrecords, List.isEmpty_nil, if_true]

/-- R74: a header count that passes its check is 1 to `n`. -/
theorem count_of_judgeCount {n : Nat} {detail : Detail} {b : Byte}
    (h : (if b = 0 ∨ n < b.toNat then some detail else none) = none) : 1 ≤ b.toNat ∧ b.toNat ≤ n := by
  have hneg : ¬ (b = 0 ∨ n < b.toNat) := fun hbad => by rw [if_pos hbad] at h; cases h
  obtain ⟨hzero, hover⟩ := not_or.mp hneg
  exact ⟨Nat.one_le_iff_ne_zero.mpr fun e => hzero (BitVec.eq_of_toNat_eq e), Nat.not_lt.mp hover⟩

/-- R70 to R74: what passes the walk is an image's bytes, and the image keeps the rules. -/
theorem walkImage_ok {bytes : List Byte} {img : BankImage} (h : walkImage bytes = .ok img) :
    imageSound img ∧ imageBytes img = bytes := by
  unfold walkImage at h
  split at h
  · cases h
  rename_i version c1 h1
  split at h
  · cases h
  rename_i bandCount c2 h2
  split at h
  · cases h
  rename_i modeCount c3 h3
  split at h
  · cases h
  rename_i bounds c4 h4
  split at h
  · cases h
  rename_i modes c5 h5
  split at h
  case isFalse => cases h
  rename_i hend
  cases h
  obtain ⟨e1, hversion⟩ := walkChecked_ok _ _ _ _ h1
  obtain ⟨e2, hbandCount⟩ := walkChecked_ok _ _ _ _ h2
  obtain ⟨e3, hmodeCount⟩ := walkChecked_ok _ _ _ _ h3
  obtain ⟨e4, hbounds, hrange, hsorted, -⟩ := walkBounds_ok _ _ _ _ _ h4
  obtain ⟨e5, hmodes, hids, -, hsound⟩ := walkModes_ok _ _ _ _ _ _ h5
  obtain ⟨hband1, hband8⟩ := count_of_judgeCount hbandCount
  obtain ⟨hmode1, hmode16⟩ := count_of_judgeCount hmodeCount
  have hone : version = 1 := by
    by_contra hne
    rw [if_neg hne] at hversion
    cases hversion
  refine ⟨⟨?_, ?_, ?_, ?_, hrange, hsorted, hids, ?_⟩, ?_⟩
  · rw [hbounds]; exact hband1
  · rw [hbounds]; exact hband8
  · rw [hmodes]; exact hmode1
  · rw [hmodes]; exact hmode16
  · rw [hbounds]; exact hsound
  · have hrest : c5.rest = [] := List.isEmpty_iff.mp hend
    rw [imageBytes_eq, hbounds, hmodes, byteOf_of_toNat, byteOf_of_toNat, ← hone]
    simp only [hrest, List.append_nil] at e5
    rw [← e5, ← e4, ← e3, ← e2]
    exact e1.symm

/-- Settles O36: part by part, the walk reads what the layout writes, and writes what it reads. -/
theorem imageWalkReadsTheImage : Obligations.ImageWalkReadsTheImage :=
  ⟨fun _ h => walkImage_imageBytes h, fun _ _ h => walkImage_ok h⟩

end Sys2Proof.Machine
end

section
/-! What may happen in the Waveform Store and to the slots that use it, said once: a slot armed, renumbered or ended, a bank loaded,
verified or erased, an activation, and the two resets (R43, R47, R51, R52, R63, R65 to R69, R75, R77, R78, R80, R81). -/

namespace Sys2Proof.Machine

/-! ### The moves -/

/-- R30, R43, R79: a bank holds the mode record an update armed with, with the update's F for its band. -/
def holdsWaveform (v : Bank) (u : Update) : Prop :=
  ∃ m d, modeOfBytes v.contents u.mode = some m ∧ m.bands[u.band]? = some d ∧ d.frames = u.frames

/-- Slot `i` alone may differ. -/
def othersStay (s t : State) (i : Fin 8) : Prop := ∀ j, j ≠ i → t.slots[j] = s.slots[j]

/-- What the Drive Table does to the slots and the banks in one go: nothing, the arming of a FREE slot from the ACTIVE bank, a new
frame index, or the end of a slot. -/
inductive StoreMove (s t : State) : Prop
  | same (slots : ∀ j : Fin 8, t.slots[j] = s.slots[j]) (banks : ∀ c, bankAt t c = bankAt s c)
  | armed (i : Fin 8) (u : Update) (others : othersStay s t i) (free : s.slots[i] = .free)
      (after : slotUpdate t.slots[i] = some u) (active : (bankAt s u.bank).state = .active)
      (waveform : holdsWaveform (bankAt s u.bank) u) (banks : ∀ c, bankAt t c =
        { bankAt s c with refCount := (bankAt s c).refCount + if c = u.bank then 1 else 0 })
  | indexed (i : Fin 8) (u : Update) (index : Nat) (others : othersStay s t i) (before : slotUpdate s.slots[i] = some u)
      (after : slotUpdate t.slots[i] = some { u with index := index }) (banks : ∀ c, bankAt t c = bankAt s c)
  | ended (i : Fin 8) (u : Update) (others : othersStay s t i) (before : slotUpdate s.slots[i] = some u)
      (after : t.slots[i] = .free) (banks : ∀ c, bankAt t c = if c = u.bank then bankReleased (bankAt s c) else bankAt s c)

/-- Moves one after another. -/
def StoreMoves : State → State → Prop := Relation.ReflTransGen StoreMove

theorem StoreMoves.refl (s : State) : StoreMoves s s := Relation.ReflTransGen.refl

theorem StoreMoves.trans {s t u : State} (h : StoreMoves s t) (k : StoreMoves t u) : StoreMoves s u :=
  Relation.ReflTransGen.trans h k

theorem StoreMove.moves {s t : State} (h : StoreMove s t) : StoreMoves s t := Relation.ReflTransGen.single h

theorem StoreMoves.foldl {ι : Type} {f : State → ι → State} (h : ∀ s i, StoreMoves s (f s i)) (l : List ι) (s : State) :
    StoreMoves s (l.foldl f s) := by
  induction l generalizing s with
  | nil => exact .refl s
  | cons i l ih => exact (h s i).trans (ih (f s i))

theorem StoreMoves.of_eq {s t : State} (hslots : t.slots = s.slots) (ha : t.bankA = s.bankA) (hb : t.bankB = s.bankB) :
    StoreMoves s t :=
  (StoreMove.same (fun j => by simp only [hslots]) fun c => by cases c <;> assumption).moves

theorem StoreMoves.of_linkFrame {s t : State} (h : linkFrame s t) : StoreMoves s t := by
  unfold linkFrame at h
  rw [h]
  exact .of_eq rfl rfl rfl

/-! ### Starts -/

/-- R28 to R30: an entry that passes the start checks takes the ACTIVE bank and a band of the mode record that bank holds. -/
theorem startChecks_holdsWaveform {s : State} {x : Entry} {d : StartData} (h : startChecks s x = .ok d) (changed : Nat) :
    (bankAt s d.bank).state = .active ∧ holdsWaveform (bankAt s d.bank) (armedUpdate x d changed) := by
  unfold startChecks at h
  split at h
  case h_2 => cases h
  rename_i bank m hbank hmode
  split at h
  · cases h
  split at h
  · cases h
  split at h
  · cases h
  rename_i b hb
  split at h
  · cases h
  cases h
  rw [activeMode, hbank] at hmode
  refine ⟨?_, m, b, hmode, hb, rfl⟩
  unfold activeBank at hbank
  split at hbank
  · cases hbank; assumption
  · split at hbank
    · cases hbank; assumption
    · cases hbank

theorem eq_or_eq_otherBank (c bank : BankId) : c = bank ∨ c = otherBank bank := by
  cases c <;> cases bank <;> simp [otherBank]

/-- R63: arming at the banks. -/
theorem bankAt_arm (i : Fin 8) (x : Entry) (d : StartData) (s : State) (c : BankId) : bankAt (arm i x d s) c =
    { bankAt s c with refCount := (bankAt s c).refCount + if c = d.bank then 1 else 0 } := by
  obtain rfl | rfl := eq_or_eq_otherBank c d.bank
  · rw [if_pos rfl, arm_bank]
  · rw [if_neg (otherBank_ne _), arm_other_bank]
    rfl

theorem arm_storeMove {i : Fin 8} {s : State} {x : Entry} {d : StartData} (hfree : s.slots[i] = .free)
    (hchecks : startChecks s x = .ok d) (queue : List Entry) : StoreMove s (arm i x d { s with queue := queue }) := by
  obtain ⟨hactive, hwaveform⟩ := startChecks_holdsWaveform hchecks
    (changedPixels (latchTarget x.rect.val d.record.twoLevel { s with queue := queue }) x.rect.val)
  exact .armed i _ (fun j hj => arm_slot_other x d { s with queue := queue } hj) hfree
    (congrArg slotUpdate (arm_slot_same i x d { s with queue := queue })) hactive hwaveform
    fun c => bankAt_arm i x d { s with queue := queue } c

/-- R32: an entry taken to start. -/
theorem startEntry_storeMoves (older younger : List Entry) (x : Entry) (s : State) :
    StoreMoves s (startEntry older x younger s) := by
  unfold startEntry
  split
  · exact .refl s
  · rename_i i hi
    split
    · rename_i d hchecks
      exact (arm_storeMove (lowestFree_slot hi) hchecks _).moves
    · exact .of_eq rfl rfl rfl

/-- R27: an evaluation of starts. -/
theorem evaluateStarts_storeMoves (s : State) : StoreMoves s (evaluateStarts s) :=
  evaluateUpTo_induction (P := StoreMoves s) (fun t older younger x _ _ h => h.trans (startEntry_storeMoves older younger x t))
    _ s (.refl s)

/-! ### The ends of slots -/

/-- R51, R52: an operation that ends a slot makes one move there. -/
theorem EndsSlots.storeMove {ends : Slot → Bool} {result : EndResult} {f : State → Fin 8 → State} (h : EndsSlots ends result f)
    {s : State} {i : Fin 8} (hends : ends s.slots[i] = true) : StoreMove s (f s i) := by
  obtain ⟨u, hu⟩ := h.active hends
  obtain ⟨hfree, hbanks, -⟩ := h.ended s i u hu hends
  refine .ended i u (h.other s i) hu hfree fun c => ?_
  rw [hbanks, bankAt_releaseBank]
  split
  · rename_i hc; rw [hc]
  · rfl

theorem abortSlot_storeMoves (result : EndResult) (s : State) (i : Fin 8) : StoreMoves s (abortSlot result s i) := by
  cases hactive : isActive s.slots[i] with
  | true => exact ((abortSlot_endsSlots result).storeMove hactive).moves
  | false =>
    rw [abortSlot_of_free result ((slotIsFree_iff _).mp (by simpa [isActive] using hactive))]
    exact .refl s

theorem abortAll_storeMoves (result : EndResult) (s : State) : StoreMoves s (abortAll result s) :=
  .foldl (abortSlot_storeMoves result) slotNumbers s

theorem abortIfArmed_storeMoves (s : State) (i : Fin 8) : StoreMoves s (abortIfArmed s i) := by
  unfold abortIfArmed
  split
  · exact .refl s
  · exact abortSlot_storeMoves _ s i
  · exact .refl s

theorem abortUnlessOn_storeMoves (s : State) : StoreMoves s (abortUnlessOn s) := by
  unfold abortUnlessOn
  split
  · exact .refl s
  · exact .foldl abortIfArmed_storeMoves slotNumbers s

/-- R47: an active slot that takes a frame index. -/
theorem setSlot_indexed_storeMove {s : State} {i : Fin 8} {u : Update} (h : slotUpdate s.slots[i] = some u) (index : Nat) :
    StoreMove s (setSlot i (.driving { u with index := index }) s) :=
  .indexed i u index (fun _ hj => setSlot_slot_other _ s hj) h (congrArg slotUpdate (setSlot_slot_same i _ s))
    (bankAt_setSlot i _ s)

/-- R47, R51: a slot at a boundary in RUNNING. -/
theorem advanceSlot_storeMoves (s : State) (i : Fin 8) : StoreMoves s (advanceSlot s i) := by
  cases hlast : atLastFrame s.slots[i] with
  | true => exact (advanceSlot_endsSlots.storeMove hlast).moves
  | false =>
    unfold advanceSlot
    split
    case h_1 => exact .refl s
    case h_2 u hi => exact (setSlot_indexed_storeMove (by rw [hi]; rfl) 1).moves
    case h_3 u hi =>
      have hbelow : u.index ≠ u.frames := by simpa [atLastFrame, hi] using hlast
      rw [if_neg hbelow]
      exact (setSlot_indexed_storeMove (by rw [hi]; rfl) (u.index + 1)).moves

/-! ### Boundaries, the rails and halts -/

theorem haltedIfIdle_storeMoves (s : State) : StoreMoves s (haltedIfIdle s) := by
  unfold haltedIfIdle
  split <;> exact .of_eq rfl rfl rfl

/-- R47, R55. -/
theorem advanceSlots_storeMoves (s : State) : StoreMoves s (advanceSlots s) := by
  unfold advanceSlots
  split
  · exact .foldl advanceSlot_storeMoves slotNumbers s
  · exact (abortAll_storeMoves _ s).trans (haltedIfIdle_storeMoves _)
  · exact .refl s

theorem demandEndsInOn_storeMoves (s : State) : StoreMoves s (demandEndsInOn s) := by
  unfold demandEndsInOn
  dsimp only
  split <;> exact .of_eq rfl rfl rfl

theorem judgeDemandEnd_storeMoves (s : State) : StoreMoves s (judgeDemandEnd s) := by
  unfold judgeDemandEnd
  split
  · exact demandEndsInOn_storeMoves s
  · exact .refl s

/-- R108: a frame boundary. -/
theorem deliverBoundary_storeMoves (s : State) : StoreMoves s (deliverBoundary s) := by
  refine (advanceSlots_storeMoves s).trans ((evaluateStarts_storeMoves _).trans ?_)
  exact .trans (t := scheduleBoundary (evaluateStarts (advanceSlots s))) (.of_eq rfl rfl rfl) (judgeDemandEnd_storeMoves _)

/-- R98: entry into ON. -/
theorem enterOn_storeMoves (s : State) : StoreMoves s (enterOn s) := by
  have hon : StoreMoves s (railsOn s) := .of_eq rfl rfl rfl
  unfold enterOn
  split
  · exact hon.trans (deliverBoundary_storeMoves _)
  · exact hon.trans (demandEndsInOn_storeMoves _)

theorem enterRising_storeMoves (s : State) : StoreMoves s (enterRising s) := by
  have hrising : StoreMoves s (railsRising s) := .of_eq rfl rfl rfl
  unfold enterRising
  split
  · exact hrising.trans (enterOn_storeMoves _)
  · exact hrising

theorem demandAppears_storeMoves (s : State) : StoreMoves s (demandAppears s) := by
  unfold demandAppears
  split
  case h_1 => exact enterRising_storeMoves s
  case h_4 => exact enterOn_storeMoves s
  all_goals exact .refl s

/-- R94: an evaluation away from a boundary. -/
theorem evaluate_storeMoves (s : State) : StoreMoves s (evaluate s) := by
  unfold evaluate
  split
  · exact (evaluateStarts_storeMoves s).trans (demandAppears_storeMoves _)
  · exact evaluateStarts_storeMoves s

theorem evaluate_storeMoves_after {s t : State} (h : StoreMoves s t) : StoreMoves s (evaluate t) :=
  h.trans (evaluate_storeMoves t)

/-- R103: entry into FAULT. -/
theorem enterFault_storeMoves (cause : FaultCause) (s : State) : StoreMoves s (enterFault cause s) := by
  unfold enterFault
  refine .trans ?_ ((abortAll_storeMoves _ _).trans (haltedIfIdle_storeMoves _))
  exact .of_eq rfl rfl rfl

theorem fastFallRequest_storeMoves (s : State) : StoreMoves s (fastFallRequest s) := by
  unfold fastFallRequest
  split <;> exact .of_eq rfl rfl rfl

theorem flushIfAsked_storeMoves (flush : Bool) (s : State) : StoreMoves s (flushIfAsked flush s) := by
  unfold flushIfAsked
  split
  · rw [flushQueue_eq]
    exact .of_eq rfl rfl rfl
  · exact .refl s

theorem beginHalt_storeMoves (flush : Bool) (s : State) : StoreMoves s (beginHalt flush s) := by
  have hdeferred : StoreMoves s (deferEntry .halt { s with halt := .halting }) := .of_eq rfl rfl rfl
  exact hdeferred.trans ((flushIfAsked_storeMoves flush _).trans ((fastFallRequest_storeMoves _).trans
    ((abortUnlessOn_storeMoves _).trans (haltedIfIdle_storeMoves _))))

/-! ### Requests -/

/-- R54, R57. -/
theorem takeHalt_storeMoves (r : Request) (s : State) : StoreMoves s (takeHalt r s) := by
  unfold takeHalt haltAgain
  split
  · exact .of_linkFrame rfl
  · split
    · exact beginHalt_storeMoves _ s
    · exact beginHalt_storeMoves _ s
    · exact (flushIfAsked_storeMoves _ s).trans ((fastFallRequest_storeMoves _).trans (.of_linkFrame rfl))

/-- R58. -/
theorem takeResume_storeMoves (r : Request) (s : State) : StoreMoves s (takeResume r s) := by
  unfold takeResume
  split
  · exact .of_linkFrame rfl
  · split
    · exact .of_linkFrame rfl
    · exact .of_linkFrame rfl
    · exact evaluate_storeMoves_after (.of_eq rfl rfl rfl)

theorem submitUpdate_storeMoves (r : Request) (s : State) : StoreMoves s (submitUpdate r s) := by
  unfold submitUpdate
  split
  · exact .of_linkFrame rfl
  · split
    · exact .of_linkFrame rfl
    · exact evaluate_storeMoves_after (.of_eq rfl rfl rfl)

theorem cancelUpdate_storeMoves (r : Request) (s : State) : StoreMoves s (cancelUpdate r s) := by
  unfold cancelUpdate
  split
  · exact .of_linkFrame rfl
  · split
    · exact evaluate_storeMoves_after (.of_eq rfl rfl rfl)
    · split <;> exact .of_linkFrame rfl

theorem setReading_storeMoves (value : Int) (s : State) : StoreMoves s (setReading value s) := by
  unfold setReading
  dsimp only
  split
  · exact .of_eq rfl rfl rfl
  · exact evaluate_storeMoves_after (.of_eq rfl rfl rfl)

theorem reportTemperature_storeMoves (r : Request) (s : State) : StoreMoves s (reportTemperature r s) := by
  unfold reportTemperature
  split
  · exact .of_linkFrame rfl
  · split
    · exact .of_linkFrame rfl
    · exact .trans (.of_linkFrame (answerEntry_linkFrame r .ok [] .nothing s)) (setReading_storeMoves _ _)

theorem sourceChanged_storeMoves (s : State) : StoreMoves s (sourceChanged s) := by
  unfold sourceChanged
  dsimp only
  split <;> exact .of_eq rfl rfl rfl

theorem limitChanged_storeMoves (wasValid : Bool) (s : State) : StoreMoves s (limitChanged wasValid s) := by
  unfold limitChanged
  split
  · exact .refl s
  · split
    · exact .of_linkFrame rfl
    · split
      · exact evaluate_storeMoves s
      · exact .refl s

theorem parameterActs_storeMoves (q : ParamId) (before s : State) : StoreMoves s (parameterActs q before s) := by
  unfold parameterActs
  split
  · exact sourceChanged_storeMoves s
  · exact limitChanged_storeMoves _ s
  · exact .refl s

/-- R177. -/
theorem setParameter_storeMoves (r : Request) (s : State) : StoreMoves s (setParameter r s) := by
  unfold setParameter changeParameter
  split
  · exact .of_linkFrame rfl
  · split
    · exact .of_linkFrame rfl
    · refine .trans ?_ (parameterActs_storeMoves _ _ _)
      exact .of_eq rfl rfl rfl

theorem clearFault_storeMoves (r : Request) (s : State) : StoreMoves s (clearFault r s) := by
  unfold clearFault
  split
  · exact .of_linkFrame rfl
  · split
    · exact evaluate_storeMoves_after (.of_eq rfl rfl rfl)
    · exact .of_linkFrame rfl

theorem takeLoadOpen_storeMoves (r : Request) (s : State) : StoreMoves s (takeLoadOpen r s) := by
  unfold takeLoadOpen
  split
  · exact .of_linkFrame rfl
  · split
    · exact .of_eq rfl rfl rfl
    · exact evaluate_storeMoves_after (.of_eq rfl rfl rfl)

theorem takeLoadData_storeMoves (r : Request) (s : State) : StoreMoves s (takeLoadData r s) := by
  unfold takeLoadData
  split
  · exact .of_linkFrame rfl
  · split <;> exact .of_eq rfl rfl rfl

theorem takeLoadClose_storeMoves (r : Request) (s : State) : StoreMoves s (takeLoadClose r s) := by
  unfold takeLoadClose
  split
  · exact .of_linkFrame rfl
  · split
    · exact .of_linkFrame rfl
    · exact evaluate_storeMoves_after (.of_eq rfl rfl rfl)

theorem reportStatus_storeMoves (r : Request) (s : State) : StoreMoves s (reportStatus r s) := by
  unfold reportStatus
  split <;> exact .of_linkFrame rfl

theorem reportParameter_storeMoves (r : Request) (s : State) : StoreMoves s (reportParameter r s) := by
  unfold reportParameter
  split <;> exact .of_linkFrame rfl

theorem takeRestart_storeMoves (r : Request) (s : State) : StoreMoves s (takeRestart r s) := by
  unfold takeRestart
  split <;> exact .of_linkFrame rfl

theorem grant_storeMoves (r : Request) (s : State) : StoreMoves s (grant r s) := by
  unfold grant
  split <;> exact .of_linkFrame rfl

theorem queryUpdate_storeMoves (r : Request) (s : State) : StoreMoves s (queryUpdate r s) := by
  unfold queryUpdate
  split <;> exact .of_linkFrame rfl

theorem takeReadPixels_storeMoves (r : Request) (s : State) : StoreMoves s (takeReadPixels r s) := by
  unfold takeReadPixels
  split <;> exact .of_linkFrame rfl

theorem takeJob_storeMoves (r : Request) (kind : JobKind) (s : State) : StoreMoves s (takeJob r kind s) := by
  unfold takeJob
  split
  · exact .of_linkFrame rfl
  · split <;> exact .of_eq rfl rfl rfl

theorem takeFill_storeMoves (r : Request) (s : State) : StoreMoves s (takeFill r s) := by
  unfold takeFill
  split
  · exact .of_linkFrame rfl
  · exact takeJob_storeMoves _ _ s

theorem takeCopy_storeMoves (r : Request) (s : State) : StoreMoves s (takeCopy r s) := by
  unfold takeCopy
  split
  · exact .of_linkFrame rfl
  · exact takeJob_storeMoves _ _ s

/-! ### Events -/

theorem losePower_storeMoves (s : State) : StoreMoves s (losePower s) := by
  unfold losePower loseSettling
  split
  case h_2 =>
    split
    · split
      · exact enterFault_storeMoves _ s
      · exact .of_eq rfl rfl rfl
    · exact .refl s
  case h_3 | h_4 => exact enterFault_storeMoves _ s
  all_goals exact .refl s

theorem fallEnds_storeMoves (s : State) : StoreMoves s (fallEnds s) := by
  have hoff : StoreMoves s { s with rails := { s.rails with state := .off, fallTimer := none } } := .of_eq rfl rfl rfl
  unfold fallEnds
  dsimp only
  split
  · exact hoff.trans (enterRising_storeMoves _)
  · exact hoff

theorem ageReading_storeMoves (r : Reading) (s : State) : StoreMoves s (ageReading r s) := by
  unfold ageReading
  dsimp only
  split <;> exact .of_eq rfl rfl rfl

theorem execJobCompletion_storeMoves (s : State) : holdsAfter (StoreMoves s) (execJobCompletion s) := by
  unfold execJobCompletion
  split
  · exact .refl s
  · split
    · exact .refl s
    · exact evaluate_storeMoves_after (.of_eq rfl rfl rfl)

theorem execJobWritesPixel_storeMoves (s : State) : holdsAfter (StoreMoves s) (execJobWritesPixel s) := by
  unfold execJobWritesPixel
  split
  · exact .refl s
  · split
    · exact .refl s
    · split <;> exact .of_eq rfl rfl rfl

theorem execFrameBoundary_storeMoves (s : State) : holdsAfter (StoreMoves s) (execFrameBoundary s) := by
  unfold execFrameBoundary
  split
  · exact .refl s
  · exact deliverBoundary_storeMoves s

theorem execPowerGoodAssert_storeMoves (s : State) : holdsAfter (StoreMoves s) (execPowerGoodAssert s) := by
  unfold execPowerGoodAssert
  split
  · exact .refl s
  · split <;> exact .of_eq rfl rfl rfl

theorem execPowerGoodLoss_storeMoves (s : State) : holdsAfter (StoreMoves s) (execPowerGoodLoss s) := by
  have hlow : StoreMoves s { s with powerGood := false } := .of_eq rfl rfl rfl
  unfold execPowerGoodLoss
  split
  · split
    · exact hlow.trans (losePower_storeMoves _)
    · exact hlow
  · exact .refl s

theorem execRiseTimerExpiry_storeMoves (s : State) : holdsAfter (StoreMoves s) (execRiseTimerExpiry s) := by
  unfold execRiseTimerExpiry
  split
  · split
    · exact .of_eq rfl rfl rfl
    · exact enterFault_storeMoves _ s
  · exact .refl s

theorem execSettleTimerExpiry_storeMoves (s : State) : holdsAfter (StoreMoves s) (execSettleTimerExpiry s) := by
  unfold execSettleTimerExpiry
  split
  · exact enterOn_storeMoves s
  · exact .refl s

theorem execHoldTimerExpiry_storeMoves (s : State) : holdsAfter (StoreMoves s) (execHoldTimerExpiry s) := by
  unfold execHoldTimerExpiry
  split <;> exact .of_eq rfl rfl rfl

theorem execFallTimerExpiry_storeMoves (s : State) : holdsAfter (StoreMoves s) (execFallTimerExpiry s) := by
  unfold execFallTimerExpiry
  split
  · exact fallEnds_storeMoves s
  · exact .refl s

theorem execConversionStart_storeMoves (s : State) : holdsAfter (StoreMoves s) (execConversionStart s) := by
  unfold execConversionStart
  split <;> exact .of_eq rfl rfl rfl

theorem execConversionComplete_storeMoves (result : SensorResult) (s : State) :
    holdsAfter (StoreMoves s) (execConversionComplete result s) := by
  unfold execConversionComplete
  split
  · split
    · refine .trans ?_ (setReading_storeMoves _ _)
      exact .of_eq rfl rfl rfl
    · exact .refl s
  · trivial

theorem execAgeRise_storeMoves (s : State) : holdsAfter (StoreMoves s) (execAgeRise s) := by
  unfold execAgeRise
  split
  · exact .refl s
  · exact ageReading_storeMoves _ s

theorem execReadingBecomesStale_storeMoves (s : State) : holdsAfter (StoreMoves s) (execReadingBecomesStale s) := by
  unfold execReadingBecomesStale
  split
  · exact .refl s
  · split
    · exact ageReading_storeMoves _ s
    · exact .refl s

theorem execStartUp_storeMoves (s : State) : holdsAfter (StoreMoves s) (execStartUp s) := by
  unfold execStartUp
  split <;> exact .of_eq rfl rfl rfl

theorem execStartUpEnd_storeMoves (s : State) : holdsAfter (StoreMoves s) (execStartUpEnd s) := by
  unfold execStartUpEnd
  split <;> exact .of_eq rfl rfl rfl

end Sys2Proof.Machine
end

section
/-! What a step does to the slots and the banks, said once (R62 to R69, R75, R77, R78, R80, R81): each request of the Waveform Store,
both resets, and then every command. -/

namespace Sys2Proof.Machine

/-! ### What a step does to the store -/

/-- What a request or the end of a verification does to a bank that no slot uses (R65 to R69, R78). -/
inductive BankWork (v : Bank) : Bank → Prop
  | opened (d : Declared) (low : 64 ≤ d.size) (high : d.size ≤ 65536)
      (state : v.state = .empty ∨ v.state = .loading ∨ v.state = .loaded) : BankWork v (openedBank d v)
  | stored (bytes : List Byte) (state : v.state = .loading) (room : v.contents.length + bytes.length ≤ declaredSize v) :
      BankWork v { v with contents := v.contents ++ bytes }
  | verifying (state : v.state = .loading) (full : declaredSize v ≤ v.contents.length) :
      BankWork v { v with state := .verifying }
  | verified (state : v.state = .verifying) : BankWork v (verifyOutcome v).2.2
  | erased (state : v.state = .loading ∨ v.state = .loaded) : BankWork v (erasedBank v)

/-- What a step does to the slots and the banks: moves of the Drive Table, work on a bank, an activation (R75), a Restart (R81) or
a pin reset (R80). -/
inductive StoreStep (s t : State) : Prop
  | moved (moves : StoreMoves s t)
  | worked (bank : BankId) (slots : ∀ j : Fin 8, t.slots[j] = s.slots[j]) (work : BankWork (bankAt s bank) (bankAt t bank))
      (other : bankAt t (otherBank bank) = bankAt s (otherBank bank))
  | activated (bank : BankId) (slots : ∀ j : Fin 8, t.slots[j] = s.slots[j])
      (before : (bankAt s bank).state = .loaded ∨ (bankAt s bank).state = .retiring)
      (after : bankAt t bank = { bankAt s bank with state := .active })
      (other : bankAt t (otherBank bank) = displacedBank (bankAt s (otherBank bank)))
  | restarted (slots : ∀ j : Fin 8, t.slots[j] = .free) (banks : ∀ c, bankAt t c = restartBank (bankAt s c))
  | cleared (slots : ∀ j : Fin 8, t.slots[j] = .free) (banks : ∀ c, bankAt t c = Bank.none)

section
variable {s t : State} {bank : BankId}

theorem StoreStep.of_linkFrame (h : linkFrame s t) : StoreStep s t := .moved (.of_linkFrame h)

/-- The Control Line leaves the slots and the banks. -/
theorem linkFrame_store (h : linkFrame s t) : (∀ j : Fin 8, t.slots[j] = s.slots[j]) ∧ ∀ c, bankAt t c = bankAt s c := by
  unfold linkFrame at h
  rw [h]
  exact ⟨fun _ => rfl, fun c => by cases c <;> rfl⟩

theorem setBank_slot (bank : BankId) (v : Bank) (s : State) (j : Fin 8) : (setBank bank v s).slots[j] = s.slots[j] := by
  cases bank <;> rfl

/-- Work on a bank, answered or deferred. -/
theorem StoreStep.of_work {v : Bank} (h : BankWork (bankAt s bank) v) (ht : linkFrame (setBank bank v s) t) :
    StoreStep s t := by
  obtain ⟨hslots, hbanks⟩ := linkFrame_store ht
  refine .worked bank (fun j => ?_) ?_ ?_
  · rw [hslots, setBank_slot]
  · rw [hbanks, bankAt_setBank_same]; exact h
  · rw [hbanks, bankAt_setBank_other]

theorem openBank_storeStep (r : Request) (s : State) : StoreStep s (openBank r s) := by
  cases hfields : bankOpenFields r.payload with
  | error st => rw [openBank_of_error hfields]; exact .of_linkFrame rfl
  | ok p =>
    obtain ⟨bank, d⟩ := p
    obtain ⟨hlow, hhigh⟩ := size_of_bankOpenFields hfields
    by_cases hstate : (bankAt s bank).state = .empty ∨ (bankAt s bank).state = .loading ∨ (bankAt s bank).state = .loaded
    · rw [openBank_opens hfields hstate]
      exact .of_work (.opened d hlow hhigh hstate) rfl
    · rw [openBank_wrongState hfields hstate]
      exact .of_linkFrame rfl

theorem storeBankData_storeStep (r : Request) (s : State) : StoreStep s (storeBankData r s) := by
  cases hfields : bankDataFields r.payload with
  | error st => rw [storeBankData_of_error hfields]; exact .of_linkFrame rfl
  | ok p =>
    obtain ⟨bank, offset, bytes⟩ := p
    by_cases hstate : (bankAt s bank).state = .loading
    · rw [storeBankData_loading hfields hstate]
      obtain hsame | ⟨hroom, hstored⟩ := bankWithData_cases offset bytes (bankAt s bank)
      · rw [hsame, setBank_self]
        exact .of_linkFrame rfl
      · rw [hstored]
        exact .of_work (.stored bytes hstate hroom) rfl
    · rw [storeBankData_wrongState hfields hstate]
      exact .of_linkFrame rfl

theorem beginVerify_storeStep (r : Request) (s : State) : StoreStep s (beginVerify r s) := by
  cases hfields : bankField r.payload with
  | error st => rw [beginVerify_of_error hfields]; exact .of_linkFrame rfl
  | ok bank =>
    by_cases hstate : (bankAt s bank).state = .loading
    · rw [beginVerify_loading hfields hstate]
      split
      · exact .of_linkFrame rfl
      · exact .of_work (.verifying hstate (Nat.not_lt.mp ‹_›)) rfl
    · rw [beginVerify_wrongState hfields hstate]
      exact .of_linkFrame rfl

theorem eraseBank_storeStep (r : Request) (s : State) : StoreStep s (eraseBank r s) := by
  cases hfields : bankField r.payload with
  | error st => rw [eraseBank_of_error hfields]; exact .of_linkFrame rfl
  | ok bank =>
    cases hstate : (bankAt s bank).state with
    | empty => rw [eraseBank_empty hfields hstate]; exact .of_linkFrame rfl
    | loading => rw [eraseBank_erases hfields (.inl hstate)]; exact .of_work (.erased (.inl hstate)) rfl
    | loaded => rw [eraseBank_erases hfields (.inr hstate)]; exact .of_work (.erased (.inr hstate)) rfl
    | verifying => rw [eraseBank_wrongState hfields (.inl hstate)]; exact .of_linkFrame rfl
    | active => rw [eraseBank_wrongState hfields (.inr (.inl hstate))]; exact .of_linkFrame rfl
    | retiring => rw [eraseBank_wrongState hfields (.inr (.inr hstate))]; exact .of_linkFrame rfl

theorem activateBank_slot (bank : BankId) (s : State) (j : Fin 8) : (activateBank bank s).slots[j] = s.slots[j] := by
  rw [activateBank, setBank_slot, setBank_slot]

/-- R75: an activation, answered. -/
theorem StoreStep.of_activate (h : (bankAt s bank).state = .loaded ∨ (bankAt s bank).state = .retiring)
    (ht : linkFrame (activateBank bank s) t) : StoreStep s t := by
  obtain ⟨hslots, hbanks⟩ := linkFrame_store ht
  obtain ⟨hown, hother⟩ := bankAt_activateBank bank s
  exact .activated bank (fun j => (hslots j).trans (activateBank_slot bank s j)) h ((hbanks bank).trans hown)
    ((hbanks (otherBank bank)).trans hother)

theorem takeActivate_storeStep (r : Request) (s : State) : StoreStep s (takeActivate r s) := by
  cases hfields : bankField r.payload with
  | error st => rw [takeActivate_of_error hfields]; exact .of_linkFrame rfl
  | ok bank =>
    cases hstate : (bankAt s bank).state with
    | empty => rw [takeActivate_wrongState hfields (.inl hstate)]; exact .of_linkFrame rfl
    | loading => rw [takeActivate_wrongState hfields (.inr (.inl hstate))]; exact .of_linkFrame rfl
    | verifying => rw [takeActivate_wrongState hfields (.inr (.inr hstate))]; exact .of_linkFrame rfl
    | active => rw [takeActivate_active hfields hstate]; exact .of_linkFrame rfl
    | loaded => rw [takeActivate_activates hfields (.inl hstate)]; exact .of_activate (.inl hstate) rfl
    | retiring => rw [takeActivate_activates hfields (.inr hstate)]; exact .of_activate (.inr hstate) rfl

theorem execVerificationComplete_storeStep (bank : BankId) (s : State) :
    holdsAfter (StoreStep s) (execVerificationComplete bank s) := by
  unfold execVerificationComplete
  split
  · exact .of_work (.verified ‹_›) rfl
  · exact .of_linkFrame rfl

/-- R144, R162, R183: what follows the last byte of a reply. -/
theorem replyEffect_storeStep (effect : ReplyEffect) (h : linkFrame s t) : StoreStep s (replyEffect effect t) := by
  unfold replyEffect
  split
  · exact .of_linkFrame h
  · exact .of_linkFrame (linkFrame_trans h (linkFrame_trans (checkFrame_linkFrame t) (changeLineRate_linkFrame _ _)))
  · obtain ⟨-, hbanks⟩ := linkFrame_store h
    exact .restarted (restartTakesEffect_slot t) fun c => by rw [bankAt_restartTakesEffect, hbanks]

theorem execReplySent_storeStep (s : State) : holdsAfter (StoreStep s) (execReplySent s) := by
  unfold execReplySent
  split
  · exact replyEffect_storeStep _ (settled_frame _ _ s)
  · exact .of_linkFrame rfl
  · exact .of_linkFrame rfl

theorem execPinReset_storeStep (s : State) : holdsAfter (StoreStep s) (execPinReset s) :=
  .cleared (afterPinReset_slot s) (bankAt_afterPinReset s)

/-! ### Every command -/

/-- R158: a taking does to the store what the request does. -/
theorem dispatch_storeStep (code : RequestCode) {run : Request → State → State} (h : ∀ r, StoreStep s (run r s)) :
    StoreStep s (dispatch code run s) := by
  obtain e | ⟨r, -, e⟩ := dispatch_cases code run s
  · rw [e]; exact .of_linkFrame rfl
  · rw [e]; exact h r

theorem dispatch_moves_storeStep (code : RequestCode) {run : Request → State → State} (h : ∀ r, StoreMoves s (run r s)) :
    StoreStep s (dispatch code run s) := dispatch_storeStep code fun r => .moved (h r)

theorem storeStep_of_moves {o : Host.Outcome State Fault Refusal} (h : holdsAfter (StoreMoves s) o) :
    holdsAfter (StoreStep s) o := holdsAfter_mono (fun _ => .moved) h

theorem storeStep_of_link {o : Host.Outcome State Fault Refusal} (h : holdsAfter (linkFrame s) o) :
    holdsAfter (StoreStep s) o := holdsAfter_mono (fun _ => .of_linkFrame) h

end

/-- What each command does to the slots and the banks. -/
theorem exec_storeStep (c : Instr) (s : State) : holdsAfter (StoreStep s) (exec c s) := by
  cases c with
  | frame => exact storeStep_of_link (execFrame_linkFrame s)
  | gapTimeout => exact storeStep_of_link (execGapTimeout_linkFrame s)
  | hello => exact storeStep_of_link (execHello_linkFrame s)
  | unknownCode => exact storeStep_of_link (execUnknownCode_linkFrame s)
  | getStatus => exact dispatch_moves_storeStep _ (reportStatus_storeMoves · s)
  | getParameter => exact dispatch_moves_storeStep _ (reportParameter_storeMoves · s)
  | setParameter => exact dispatch_moves_storeStep _ (setParameter_storeMoves · s)
  | restart => exact dispatch_moves_storeStep _ (takeRestart_storeMoves · s)
  | grantNotices => exact dispatch_moves_storeStep _ (grant_storeMoves · s)
  | submitUpdate => exact dispatch_moves_storeStep _ (submitUpdate_storeMoves · s)
  | cancelUpdate => exact dispatch_moves_storeStep _ (cancelUpdate_storeMoves · s)
  | queryUpdate => exact dispatch_moves_storeStep _ (queryUpdate_storeMoves · s)
  | halt => exact dispatch_moves_storeStep _ (takeHalt_storeMoves · s)
  | resume => exact dispatch_moves_storeStep _ (takeResume_storeMoves · s)
  | bankOpen => exact dispatch_storeStep _ (openBank_storeStep · s)
  | bankData => exact dispatch_storeStep _ (storeBankData_storeStep · s)
  | bankVerify => exact dispatch_storeStep _ (beginVerify_storeStep · s)
  | bankActivate => exact dispatch_storeStep _ (takeActivate_storeStep · s)
  | bankErase => exact dispatch_storeStep _ (eraseBank_storeStep · s)
  | temperatureReport => exact dispatch_moves_storeStep _ (reportTemperature_storeMoves · s)
  | clearFault => exact dispatch_moves_storeStep _ (clearFault_storeMoves · s)
  | loadOpen => exact dispatch_moves_storeStep _ (takeLoadOpen_storeMoves · s)
  | loadData => exact dispatch_moves_storeStep _ (takeLoadData_storeMoves · s)
  | loadClose => exact dispatch_moves_storeStep _ (takeLoadClose_storeMoves · s)
  | readPixels => exact dispatch_moves_storeStep _ (takeReadPixels_storeMoves · s)
  | fill => exact dispatch_moves_storeStep _ (takeFill_storeMoves · s)
  | copy => exact dispatch_moves_storeStep _ (takeCopy_storeMoves · s)
  | jobCompletion => exact storeStep_of_moves (execJobCompletion_storeMoves s)
  | verificationComplete bank => exact execVerificationComplete_storeStep bank s
  | frameBoundary => exact storeStep_of_moves (execFrameBoundary_storeMoves s)
  | powerGoodAssert => exact storeStep_of_moves (execPowerGoodAssert_storeMoves s)
  | powerGoodLoss => exact storeStep_of_moves (execPowerGoodLoss_storeMoves s)
  | riseTimerExpiry => exact storeStep_of_moves (execRiseTimerExpiry_storeMoves s)
  | settleTimerExpiry => exact storeStep_of_moves (execSettleTimerExpiry_storeMoves s)
  | holdTimerExpiry => exact storeStep_of_moves (execHoldTimerExpiry_storeMoves s)
  | fallTimerExpiry => exact storeStep_of_moves (execFallTimerExpiry_storeMoves s)
  | conversionStart => exact storeStep_of_moves (execConversionStart_storeMoves s)
  | conversionComplete result => exact storeStep_of_moves (execConversionComplete_storeMoves result s)
  | ageRise => exact storeStep_of_moves (execAgeRise_storeMoves s)
  | readingBecomesStale => exact storeStep_of_moves (execReadingBecomesStale_storeMoves s)
  | replyBegin => exact storeStep_of_link (execReplyBegin_linkFrame s)
  | replySent => exact execReplySent_storeStep s
  | noticeBegin => exact storeStep_of_link (execNoticeBegin_linkFrame s)
  | noticeSent => exact storeStep_of_link (execNoticeSent_linkFrame s)
  | pinReset => exact execPinReset_storeStep s
  | startUp => exact storeStep_of_moves (execStartUp_storeMoves s)
  | startUpEnd => exact storeStep_of_moves (execStartUpEnd_storeMoves s)
  | receivedByte value => exact storeStep_of_link (execReceivedByte_linkFrame value s)
  | jobWritesPixel => exact storeStep_of_moves (execJobWritesPixel_storeMoves s)

/-- A step does to the store what its command does, from the state with the rest of the queue. -/
theorem step_storeStep {s t : State} (h : step s = .next t) :
    ∃ r, r.slots = s.slots ∧ (∀ c, bankAt r c = bankAt s c) ∧ StoreStep r t := by
  unfold step at h
  split at h
  · cases h
    exact ⟨s, rfl, fun _ => rfl, .of_linkFrame rfl⟩
  · rename_i c rest _
    exact ⟨{ s with pending := rest }, rfl, fun c => by cases c <;> rfl, holdsAfter_next (exec_storeStep c _) h⟩

end Sys2Proof.Machine
end

section
/-! The law of the Waveform Store and of the slots' mode records (R63, R75, R77, R79): whatever a step does to the store keeps it. -/

namespace Sys2Proof.Machine

/-! ### The law of the banks and the mode records (R63, R75, R77, R79) -/

/-- R63: a bank that slots may use. -/
def bankInUse (v : Bank) : Prop := v.state = .active ∨ v.state = .retiring

/-- R63, R79: the laws of the banks and of the slots' mode records, bank by bank and slot by slot. -/
structure StoreLaw (s : State) : Prop where
  oneActive : ∀ bank, (bankAt s bank).state = .active → (bankAt s (otherBank bank)).state ≠ .active
  counted : ∀ bank, (bankAt s bank).refCount = slotsUsing s bank
  served : ∀ (i : Fin 8) (u : Update), slotUpdate s.slots[i] = some u →
    bankInUse (bankAt s u.bank) ∧ holdsWaveform (bankAt s u.bank) u
  retiring : ∀ bank, (bankAt s bank).state = .retiring →
    1 ≤ (bankAt s bank).refCount ∧ (bankAt s (otherBank bank)).state = .active

@[simp] theorem otherBank_otherBank (bank : BankId) : otherBank (otherBank bank) = bank := by cases bank <;> rfl

theorem storeLaw_iff (s : State) : StoreLaw s ↔ BankLaw s ∧ SlotWaveformLaw s := by
  constructor
  · rintro ⟨hone, hcount, hserved, hretiring⟩
    refine ⟨⟨fun h => hone .a h.1 h.2, hcount, fun u hu => ?_, hretiring⟩, fun u hu => ?_⟩
    all_goals obtain ⟨i, hi⟩ := mem_activeUpdates_iff.mp hu
    · exact (hserved i u hi).1
    · exact (hserved i u hi).2
  · rintro ⟨⟨hone, hcount, huse, hretiring⟩, hwaveform⟩
    refine ⟨fun bank h h' => ?_, hcount, fun i u hu => ?_, hretiring⟩
    · cases bank with
      | a => exact hone ⟨h, h'⟩
      | b => exact hone ⟨h', h⟩
    · have hmem := mem_activeUpdates_iff.mpr ⟨i, hu⟩
      exact ⟨huse u hmem, hwaveform u hmem⟩

theorem slotsUsing_congr {s t : State} (h : ∀ j : Fin 8, t.slots[j] = s.slots[j]) (bank : BankId) :
    slotsUsing t bank = slotsUsing s bank := by
  have hslots : t.slots = s.slots := Vector.ext fun n hn => h ⟨n, hn⟩
  rw [slotsUsing, slotsUsing, activeUpdates_congr hslots]

section
variable {s t : State}

theorem StoreLaw.congr (h : StoreLaw s) (hslots : ∀ j : Fin 8, t.slots[j] = s.slots[j])
    (hbanks : ∀ c, bankAt t c = bankAt s c) : StoreLaw t := by
  refine ⟨fun bank => ?_, fun bank => ?_, fun i u => ?_, fun bank => ?_⟩
  · rw [hbanks, hbanks]; exact h.oneActive bank
  · rw [hbanks, slotsUsing_congr hslots]; exact h.counted bank
  · rw [hslots, hbanks]; exact h.served i u
  · rw [hbanks, hbanks]; exact h.retiring bank

/-- R63: a bank of an active slot has a count above 0. -/
theorem StoreLaw.count_pos (h : StoreLaw s) {i : Fin 8} {u : Update} (hu : slotUpdate s.slots[i] = some u) :
    0 < (bankAt s u.bank).refCount := by
  rw [h.counted]
  refine Nat.pos_of_ne_zero fun hzero => ?_
  exact (slotsUsing_eq_zero_iff s u.bank).mp hzero i (slotBank_of_update hu)

/-! ### The moves keep the law -/

/-- R63: a slot that a bank's update fills adds one to the slots that use that bank. -/
theorem slotsUsing_of_filled {i : Fin 8} {u : Update} (hothers : othersStay s t i) (hfree : s.slots[i] = .free)
    (hafter : slotUpdate t.slots[i] = some u) (c : BankId) :
    slotsUsing t c = slotsUsing s c + if c = u.bank then 1 else 0 := by
  have huses := slotsUsing_of_others hothers c
  rw [slotBank_of_update hafter, hfree] at huses
  simpa [slotBank, slotUpdate, @eq_comm _ u.bank] using huses.symm

/-- R43, R63: arming from the ACTIVE bank. -/
theorem StoreLaw.armed (h : StoreLaw s) {i : Fin 8} {u : Update} (hothers : othersStay s t i) (hfree : s.slots[i] = .free)
    (hafter : slotUpdate t.slots[i] = some u) (hactive : (bankAt s u.bank).state = .active)
    (hwaveform : holdsWaveform (bankAt s u.bank) u) (hbanks : ∀ c, bankAt t c =
      { bankAt s c with refCount := (bankAt s c).refCount + if c = u.bank then 1 else 0 }) : StoreLaw t := by
  have hstate : ∀ c, (bankAt t c).state = (bankAt s c).state := fun c => by rw [hbanks]
  refine ⟨fun bank => ?_, fun bank => ?_, fun j v hv => ?_, fun bank hretiring => ?_⟩
  · rw [hstate, hstate]; exact h.oneActive bank
  · rw [hbanks, slotsUsing_of_filled hothers hfree hafter, h.counted]
  · unfold bankInUse holdsWaveform
    rw [hbanks]
    by_cases hj : j = i
    · subst hj
      obtain rfl : u = v := Option.some.inj (hafter.symm.trans hv)
      exact ⟨.inl hactive, hwaveform⟩
    · rw [hothers j hj] at hv
      exact h.served j v hv
  · rw [hstate] at hretiring ⊢
    obtain ⟨hcount, hother⟩ := h.retiring bank hretiring
    rw [hbanks]
    exact ⟨Nat.le_add_right_of_le hcount, hother⟩

/-- R47: a frame index is nothing to the law. -/
theorem StoreLaw.indexed (h : StoreLaw s) {i : Fin 8} {u : Update} {index : Nat} (hothers : othersStay s t i)
    (hbefore : slotUpdate s.slots[i] = some u) (hafter : slotUpdate t.slots[i] = some { u with index := index })
    (hbanks : ∀ c, bankAt t c = bankAt s c) : StoreLaw t := by
  refine ⟨fun bank => ?_, fun bank => ?_, fun j v hv => ?_, fun bank => ?_⟩
  · rw [hbanks, hbanks]; exact h.oneActive bank
  · have huses := slotsUsing_of_others hothers bank
    rw [slotBank_of_update hafter, slotBank_of_update hbefore] at huses
    rw [hbanks, h.counted]
    exact Nat.add_right_cancel huses
  · rw [hbanks]
    by_cases hj : j = i
    · subst hj
      obtain rfl : { u with index := index } = v := Option.some.inj (hafter.symm.trans hv)
      exact h.served j u hbefore
    · rw [hothers j hj] at hv
      exact h.served j v hv
  · rw [hbanks, hbanks]; exact h.retiring bank

theorem bankReleased_active_iff (v : Bank) : (bankReleased v).state = .active ↔ v.state = .active := by
  unfold bankReleased
  split
  · rename_i h; simp [h.1]
  · rfl

theorem retiring_of_bankReleased {v : Bank} (h : (bankReleased v).state = .retiring) :
    v.state = .retiring ∧ v.refCount - 1 ≠ 0 := by
  unfold bankReleased at h
  split at h
  · cases h
  · rename_i hstays
    exact ⟨h, fun hlast => hstays ⟨h, hlast⟩⟩

section
variable {i : Fin 8} {u : Update}

/-- R63: the count of each bank after the end of a slot. -/
theorem StoreLaw.ended_counted (h : StoreLaw s) (hothers : othersStay s t i) (hbefore : slotUpdate s.slots[i] = some u)
    (hafter : t.slots[i] = .free)
    (hbanks : ∀ c, bankAt t c = if c = u.bank then bankReleased (bankAt s c) else bankAt s c) (c : BankId) :
    (bankAt t c).refCount = slotsUsing t c := by
  have huses := slotsUsing_of_filled (fun j hj => (hothers j hj).symm) hafter hbefore c
  rw [hbanks]
  split
  · rename_i hown
    rw [bankReleased_refCount, h.counted, huses, if_pos hown, Nat.add_sub_cancel]
  · rename_i hown
    rw [h.counted, huses, if_neg hown, Nat.add_zero]

/-- R77: a bank RETIRING after the end of a slot was RETIRING before it and keeps a slot. -/
theorem StoreLaw.ended_retiring (h : StoreLaw s)
    (hbanks : ∀ c, bankAt t c = if c = u.bank then bankReleased (bankAt s c) else bankAt s c) {c : BankId}
    (hc : (bankAt t c).state = .retiring) : (bankAt s c).state = .retiring ∧ 1 ≤ (bankAt t c).refCount := by
  rw [hbanks] at hc ⊢
  split at hc
  · rename_i hown
    obtain ⟨hstate, hmore⟩ := retiring_of_bankReleased hc
    rw [if_pos hown, bankReleased_refCount]
    exact ⟨hstate, Nat.one_le_iff_ne_zero.mpr hmore⟩
  · rename_i hown
    rw [if_neg hown]
    exact ⟨hc, (h.retiring c hc).1⟩

/-- R63, R77: the end of a slot. -/
theorem StoreLaw.ended (h : StoreLaw s) (hothers : othersStay s t i) (hbefore : slotUpdate s.slots[i] = some u)
    (hafter : t.slots[i] = .free)
    (hbanks : ∀ c, bankAt t c = if c = u.bank then bankReleased (bankAt s c) else bankAt s c) : StoreLaw t := by
  have hactive : ∀ c, (bankAt t c).state = .active ↔ (bankAt s c).state = .active := fun c => by
    rw [hbanks]
    split
    · exact bankReleased_active_iff _
    · rfl
  have hcounted := h.ended_counted hothers hbefore hafter hbanks
  refine ⟨fun bank => ?_, hcounted, fun j v hv => ?_, fun bank hbank => ?_⟩
  · rw [hactive, ne_eq, hactive]
    exact h.oneActive bank
  · have hji : j ≠ i := fun e => by subst e; rw [hafter] at hv; cases hv
    have hserved := h.served j v (by rw [← hothers j hji]; exact hv)
    have hpos : (bankAt t v.bank).refCount ≠ 0 := by
      rw [hcounted]
      exact fun hzero => (slotsUsing_eq_zero_iff t v.bank).mp hzero j (slotBank_of_update hv)
    rw [hbanks] at hpos ⊢
    split at hpos
    · rename_i hown
      rw [bankReleased_refCount] at hpos
      rw [if_pos hown, bankReleased_of_stays fun hlast => hpos hlast.2]
      exact hserved
    · rename_i hown
      rw [if_neg hown]
      exact hserved
  · obtain ⟨hstate, hcount⟩ := h.ended_retiring hbanks hbank
    exact ⟨hcount, (hactive _).mpr (h.retiring bank hstate).2⟩

end

theorem StoreLaw.move (h : StoreLaw s) (hmove : StoreMove s t) : StoreLaw t := by
  cases hmove with
  | same hslots hbanks => exact h.congr hslots hbanks
  | armed i u hothers hfree hafter hactive hwaveform hbanks =>
    exact h.armed hothers hfree hafter hactive hwaveform hbanks
  | indexed i u index hothers hbefore hafter hbanks => exact h.indexed hothers hbefore hafter hbanks
  | ended i u hothers hbefore hafter hbanks => exact h.ended hothers hbefore hafter hbanks

theorem StoreLaw.moves (h : StoreLaw s) (hmoves : StoreMoves s t) : StoreLaw t := by
  induction hmoves with
  | refl => exact h
  | tail _ hmove ih => exact ih.move hmove

/-! ### The requests and the resets keep the law -/

theorem verifyOutcome_idle (v : Bank) : ¬ bankInUse (verifyOutcome v).2.2 ∧ (verifyOutcome v).2.2.refCount = v.refCount := by
  obtain ⟨_, _, -, -, -, e⟩ | e := verifyOutcome_bank_cases v <;> rw [e] <;> simp [bankInUse, erasedBank, Bank.none]

/-- R65 to R69, R78: work on a bank is done where no slot uses it, leaves it so, and keeps its count. -/
theorem BankWork.idle {v w : Bank} (h : BankWork v w) : ¬ bankInUse v ∧ ¬ bankInUse w ∧ w.refCount = v.refCount := by
  cases h with
  | opened d hlow hhigh hstate =>
    refine ⟨?_, by simp [bankInUse, openedBank], rfl⟩
    obtain e | e | e := hstate <;> simp [bankInUse, e]
  | stored bytes hstate hroom => simp [bankInUse, hstate]
  | verifying hstate hfull => simp [bankInUse, hstate]
  | verified hstate => exact ⟨by simp [bankInUse, hstate], verifyOutcome_idle v⟩
  | erased hstate =>
    refine ⟨?_, by simp [bankInUse, erasedBank, Bank.none], rfl⟩
    obtain e | e := hstate <;> simp [bankInUse, e]

/-- R63: a bank that no slot uses, not ACTIVE or RETIRING before or after, is free to change. -/
theorem StoreLaw.worked (h : StoreLaw s) {bank : BankId} (hslots : ∀ j : Fin 8, t.slots[j] = s.slots[j])
    (hwork : BankWork (bankAt s bank) (bankAt t bank)) (hother : bankAt t (otherBank bank) = bankAt s (otherBank bank)) :
    StoreLaw t := by
  obtain ⟨hbefore, hafter, hcount⟩ := hwork.idle
  obtain ⟨hactive, hretiring⟩ := not_or.mp hafter
  refine ⟨fun c hc => ?_, fun c => ?_, fun j v hv => ?_, fun c hc => ?_⟩
  · obtain rfl | rfl := eq_or_eq_otherBank c bank
    · exact absurd hc hactive
    · rw [otherBank_otherBank]; exact hactive
  · rw [slotsUsing_congr hslots, ← h.counted]
    obtain rfl | rfl := eq_or_eq_otherBank c bank
    · exact hcount
    · rw [hother]
  · rw [hslots] at hv
    have hserved := h.served j v hv
    obtain hown | hown := eq_or_eq_otherBank v.bank bank
    · exact absurd (hown ▸ hserved.1) hbefore
    · rw [hown] at hserved ⊢
      rwa [hother]
  · obtain rfl | rfl := eq_or_eq_otherBank c bank
    · exact absurd hc hretiring
    · rw [hother] at hc
      have hown := (h.retiring _ hc).2
      rw [otherBank_otherBank] at hown
      exact absurd (.inl hown) hbefore

theorem displacedBank_refCount (v : Bank) : (displacedBank v).refCount = v.refCount := by
  rw [displacedBank_eq]
  split <;> rfl

theorem displacedBank_contents (v : Bank) : (displacedBank v).contents = v.contents := by
  rw [displacedBank_eq]
  split <;> rfl

theorem displacedBank_not_active (v : Bank) : (displacedBank v).state ≠ .active := by
  rw [displacedBank_eq]
  split
  · dsimp only
    split <;> simp
  · assumption

/-- R75: a displaced bank is RETIRING exactly when it was RETIRING, or ACTIVE with slots that use it. -/
theorem displacedBank_retiring_iff (v : Bank) :
    (displacedBank v).state = .retiring ↔ v.state = .retiring ∨ v.state = .active ∧ 0 < v.refCount := by
  rw [displacedBank_eq]
  split
  · rename_i hactive
    by_cases hcount : 0 < v.refCount <;> simp [hactive, hcount]
  · rename_i hactive
    simp [hactive]

/-- R75: an activation. -/
theorem StoreLaw.activated (h : StoreLaw s) {bank : BankId} (hslots : ∀ j : Fin 8, t.slots[j] = s.slots[j])
    (hafter : bankAt t bank = { bankAt s bank with state := .active })
    (hother : bankAt t (otherBank bank) = displacedBank (bankAt s (otherBank bank))) : StoreLaw t := by
  have hactive : (bankAt t bank).state = .active := by rw [hafter]
  have hcounted : ∀ c, (bankAt t c).refCount = (bankAt s c).refCount := fun c => by
    obtain rfl | rfl := eq_or_eq_otherBank c bank
    · rw [hafter]
    · rw [hother, displacedBank_refCount]
  have hcontents : ∀ c, (bankAt t c).contents = (bankAt s c).contents := fun c => by
    obtain rfl | rfl := eq_or_eq_otherBank c bank
    · rw [hafter]
    · rw [hother, displacedBank_contents]
  have hdisplaced : (bankAt t (otherBank bank)).state ≠ .active := by rw [hother]; exact displacedBank_not_active _
  refine ⟨fun c hc => ?_, fun c => ?_, fun j v hv => ?_, fun c hc => ?_⟩
  · obtain rfl | rfl := eq_or_eq_otherBank c bank
    · exact hdisplaced
    · exact absurd hc hdisplaced
  · rw [hcounted, slotsUsing_congr hslots, h.counted]
  · rw [hslots] at hv
    obtain ⟨huse, hwaveform⟩ := h.served j v hv
    have hpos := h.count_pos hv
    refine ⟨?_, by unfold holdsWaveform at hwaveform ⊢; rwa [hcontents]⟩
    obtain hown | hown := eq_or_eq_otherBank v.bank bank
    · rw [hown]; exact .inl hactive
    · rw [hown] at huse hpos ⊢
      right
      rw [hother, displacedBank_retiring_iff]
      exact huse.elim (fun hwas => .inr ⟨hwas, hpos⟩) .inl
  · obtain rfl | rfl := eq_or_eq_otherBank c bank
    · rw [hactive] at hc; cases hc
    · rw [otherBank_otherBank, hcounted]
      rw [hother, displacedBank_retiring_iff] at hc
      exact ⟨hc.elim (fun hwas => (h.retiring _ hwas).1) fun hwas => hwas.2, hactive⟩

/-- R61, R80: with every slot FREE, no count and no bank RETIRING, the law asks for one ACTIVE bank at most. -/
theorem storeLaw_of_free (hslots : ∀ j : Fin 8, t.slots[j] = .free)
    (hone : ∀ bank, (bankAt t bank).state = .active → (bankAt t (otherBank bank)).state ≠ .active)
    (hidle : ∀ c, (bankAt t c).refCount = 0 ∧ (bankAt t c).state ≠ .retiring) : StoreLaw t := by
  refine ⟨hone, fun c => ?_, fun j u hu => ?_, fun c hc => absurd hc (hidle c).2⟩
  · rw [(hidle c).1, slotsUsing, activeUpdates_of_free hslots]
    rfl
  · rw [hslots] at hu
    cases hu

theorem restartBank_active_iff (v : Bank) : (restartBank v).state = .active ↔ v.state = .active := by
  unfold restartBank
  split <;> simp_all [Bank.none]

theorem restartBank_not_retiring (v : Bank) : (restartBank v).state ≠ .retiring := by
  unfold restartBank
  split <;> simp_all [Bank.none]

/-- R81: a Restart. -/
theorem StoreLaw.restarted (h : StoreLaw s) (hslots : ∀ j : Fin 8, t.slots[j] = .free)
    (hbanks : ∀ c, bankAt t c = restartBank (bankAt s c)) : StoreLaw t := by
  refine storeLaw_of_free hslots (fun bank => ?_) fun c => ?_
  · rw [hbanks, hbanks, restartBank_active_iff, ne_eq, restartBank_active_iff]
    exact h.oneActive bank
  · rw [hbanks]
    exact ⟨restartBank_refCount _, restartBank_not_retiring _⟩

/-- R80: a pin reset. -/
theorem storeLaw_of_cleared (hslots : ∀ j : Fin 8, t.slots[j] = .free) (hbanks : ∀ c, bankAt t c = Bank.none) :
    StoreLaw t := by
  refine storeLaw_of_free hslots (fun bank => ?_) fun c => ?_ <;> rw [hbanks]
  · exact fun hactive => (nomatch hactive)
  · exact ⟨rfl, by simp [Bank.none]⟩

/-- R63, R75, R77, R79: whatever a step does to the store keeps the law. -/
theorem StoreLaw.step (h : StoreLaw s) (hstep : StoreStep s t) : StoreLaw t := by
  cases hstep with
  | moved hmoves => exact h.moves hmoves
  | worked bank hslots hwork hother => exact h.worked hslots hwork hother
  | activated bank hslots _ hafter hother => exact h.activated hslots hafter hother
  | restarted hslots hbanks => exact h.restarted hslots hbanks
  | cleared hslots hbanks => exact storeLaw_of_cleared hslots hbanks

end

/-- Settles O54: every command does one of the things to the store that keep its law. -/
theorem stepKeepsTheBankLaw : Obligations.StepKeepsTheBankLaw := by
  intro s t hbanks hwaveform hstep
  obtain ⟨r, hslots, hsame, hstore⟩ := step_storeStep hstep
  have hlaw := ((storeLaw_iff s).mpr ⟨hbanks, hwaveform⟩).congr (fun j => by simp only [hslots]) hsame
  exact (storeLaw_iff t).mp (hlaw.step hstore)

end Sys2Proof.Machine
end

section
/-! What each bank's state says of its contents (R62, R69): whatever a step does to the store keeps it. -/

namespace Sys2Proof.Machine

/-- R62: what each bank holds, bank by bank. -/
theorem bankContentsLaw_iff (s : State) : BankContentsLaw s ↔ ∀ c, bankSound (bankAt s c) :=
  ⟨fun h c => by cases c with | a => exact h.1 | b => exact h.2, fun h => ⟨h .a, h .b⟩⟩

/-- R62: the count is nothing to a bank's contents. -/
theorem bankSound_refCount {v : Bank} (h : bankSound v) (n : Nat) : bankSound { v with refCount := n } := h

theorem bankSound_none : bankSound Bank.none := ⟨rfl, rfl⟩

/-- R69: a bank that has passed verification and is LOADED, ACTIVE or RETIRING. -/
def bankVerified (v : Bank) : Prop := v.state = .loaded ∨ v.state = .active ∨ v.state = .retiring

/-- R62, R69: a verified bank is sound in each of the three states of one. -/
theorem bankSound_of_verified {v w : Bank} (h : bankSound v) (hv : bankVerified v) (hw : bankVerified w)
    (hcontents : w.contents = v.contents) (hdeclared : w.declared = v.declared) : bankSound w := by
  have hverified : bankSound.verified v := by
    unfold bankSound at h
    obtain e | e | e := hv <;> simpa only [e] using h
  have hverified' : bankSound.verified w := by
    unfold bankSound.verified at hverified ⊢
    rwa [hcontents, hdeclared]
  unfold bankSound
  obtain e | e | e := hw <;> simpa only [e] using hverified'

theorem bankSound_bankReleased {v : Bank} (h : bankSound v) : bankSound (bankReleased v) := by
  unfold bankReleased
  split
  · rename_i hlast
    exact bankSound_of_verified h (.inr (.inr hlast.1)) (.inl rfl) rfl rfl
  · exact bankSound_refCount h _

theorem bankSound_displacedBank {v : Bank} (h : bankSound v) : bankSound (displacedBank v) := by
  rw [displacedBank_eq]
  split
  · rename_i hactive
    refine bankSound_of_verified h (.inr (.inl hactive)) ?_ rfl rfl
    unfold bankVerified
    dsimp only
    split
    · exact .inr (.inr rfl)
    · exact .inl rfl
  · exact h

theorem bankSound_restartBank {v : Bank} (h : bankSound v) : bankSound (restartBank v) := by
  unfold restartBank
  split
  case h_6 hretiring => exact bankSound_of_verified h (.inr (.inr hretiring)) (.inl rfl) rfl rfl
  case h_4 | h_5 => exact bankSound_refCount h 0
  all_goals exact bankSound_none

/-- R62, R69: the end of a verification leaves a verified image, or nothing. -/
theorem bankSound_verifyOutcome {v : Bank} (h : bankSound v) (hstate : v.state = .verifying) :
    bankSound (verifyOutcome v).2.2 := by
  obtain ⟨d, img, hd, hcrc, himage, e⟩ | e := verifyOutcome_bank_cases v
  · unfold bankSound at h
    simp only [hstate] at h
    obtain ⟨d', hd', hlow, hhigh, hlength⟩ := h
    obtain rfl : d = d' := Option.some.inj (hd.symm.trans hd')
    rw [e]
    exact ⟨d, img, hd, hlow, hhigh, hlength, hcrc, himage⟩
  · rw [e]
    exact ⟨rfl, rfl⟩

/-- R65 to R69, R78: work on a bank leaves it with what its state says. -/
theorem BankWork.sound {v w : Bank} (h : BankWork v w) (hv : bankSound v) : bankSound w := by
  cases h with
  | opened d hlow hhigh _ => exact ⟨d, rfl, hlow, hhigh, Nat.zero_le _⟩
  | stored bytes hstate hroom =>
    unfold bankSound at hv ⊢
    simp only [hstate] at hv ⊢
    obtain ⟨d, hd, hlow, hhigh, -⟩ := hv
    rw [declaredSize, hd] at hroom
    exact ⟨d, hd, hlow, hhigh, by rw [List.length_append]; exact hroom⟩
  | verifying hstate hfull =>
    unfold bankSound at hv
    simp only [hstate] at hv
    obtain ⟨d, hd, hlow, hhigh, hlength⟩ := hv
    rw [declaredSize, hd] at hfull
    exact ⟨d, hd, hlow, hhigh, Nat.le_antisymm hlength hfull⟩
  | verified hstate => exact bankSound_verifyOutcome hv hstate
  | erased _ => exact ⟨rfl, rfl⟩

section
variable {s t : State}

theorem bankContents_move (h : ∀ c, bankSound (bankAt s c)) (hmove : StoreMove s t) (c : BankId) : bankSound (bankAt t c) := by
  cases hmove with
  | same _ hbanks => rw [hbanks]; exact h c
  | armed i u _ _ _ _ _ hbanks => rw [hbanks]; exact bankSound_refCount (h c) _
  | indexed i u index _ _ _ hbanks => rw [hbanks]; exact h c
  | ended i u _ _ _ hbanks =>
    rw [hbanks]
    split
    · exact bankSound_bankReleased (h c)
    · exact h c

theorem bankContents_moves (h : ∀ c, bankSound (bankAt s c)) (hmoves : StoreMoves s t) : ∀ c, bankSound (bankAt t c) := by
  induction hmoves with
  | refl => exact h
  | tail _ hmove ih => exact bankContents_move ih hmove

/-- R62, R69: whatever a step does to the store, each bank holds what its state says. -/
theorem bankContents_step (h : ∀ c, bankSound (bankAt s c)) (hstep : StoreStep s t) (c : BankId) :
    bankSound (bankAt t c) := by
  cases hstep with
  | moved hmoves => exact bankContents_moves h hmoves c
  | worked bank _ hwork hother =>
    obtain rfl | rfl := eq_or_eq_otherBank c bank
    · exact hwork.sound (h c)
    · rw [hother]; exact h _
  | activated bank _ hbefore hafter hother =>
    obtain rfl | rfl := eq_or_eq_otherBank c bank
    · rw [hafter]
      exact bankSound_of_verified (h c) (hbefore.imp_right .inr) (.inr (.inl rfl)) rfl rfl
    · rw [hother]; exact bankSound_displacedBank (h _)
  | restarted _ hbanks => rw [hbanks]; exact bankSound_restartBank (h c)
  | cleared _ hbanks => rw [hbanks]; exact bankSound_none

end

/-- Settles O55: by the same things a step may do to the store, bank by bank. -/
theorem stepKeepsTheBankContents : Obligations.StepKeepsTheBankContents := by
  intro s t hlaw hstep
  obtain ⟨r, -, hsame, hstore⟩ := step_storeStep hstep
  have hsound := (bankContentsLaw_iff s).mp hlaw
  exact (bankContentsLaw_iff t).mpr (bankContents_step (fun c => by rw [hsame]; exact hsound c) hstore)

end Sys2Proof.Machine
end

section
/-! The settings of the part: the parameters, the Temperature Monitor, the line rates, the phase and the queue of commands. What the
Control Line, the Drive Table and the rails leave of them. -/

namespace Sys2Proof.Machine

/-! ### The line rates -/

/-- R144: a line rate the part holds: the one in force, or one due to follow a reply that waits or is on the line. -/
def rateHeld (s : State) (baud : Nat) : Prop :=
  s.link.lineRate = baud ∨ (∃ q ∈ s.link.replies, q.effect = .lineRate baud) ∨
    ∃ q cacheable, s.link.transmitter = .sendingReply q cacheable ∧ q.effect = .lineRate baud

/-- R176: every parameter lies in its range. -/
def paramsInRange (ps : Params) : Prop := ∀ q, paramInRange q (paramValue q ps) = true

theorem paramsLaw_iff (s : State) :
    ParamsLaw s ↔ paramsInRange s.params ∧ ∀ baud, rateHeld s baud → paramInRange .lineRate baud = true := by
  constructor
  · rintro ⟨hparams, hline, hreplies, hsending⟩
    refine ⟨hparams, fun baud h => ?_⟩
    obtain rfl | ⟨q, hq, he⟩ | ⟨q, cacheable, htx, he⟩ := h
    · exact hline
    · exact hreplies q hq baud he
    · exact hsending q cacheable htx baud he
  · rintro ⟨hparams, hrates⟩
    exact ⟨hparams, hrates _ (.inl rfl), fun q hq baud he => hrates baud (.inr (.inl ⟨q, hq, he⟩)),
      fun q cacheable htx baud he => hrates baud (.inr (.inr ⟨q, cacheable, htx, he⟩))⟩

/-! ### The settings kept -/

/-- The queue of commands, the phase, the parameters and the Temperature Monitor are as they were, and no line rate out of its range
has come in. -/
structure SettingsKept (s t : State) : Prop where
  pending : t.pending = s.pending
  phase : t.phase = s.phase
  params : t.params = s.params
  temp : t.temp = s.temp
  rates : ∀ baud, rateHeld t baud → rateHeld s baud ∨ paramInRange .lineRate baud = true

/-- What `SettingsKept` speaks of. -/
structure SettingsView where
  pending : List Instr
  phase : Phase
  params : Params
  temp : TempMonitor
  lineRate : Nat
  replies : List QueuedReply
  transmitter : Transmitter

/-- A state, as far as its settings go. -/
def settingsView (s : State) : SettingsView :=
  ⟨s.pending, s.phase, s.params, s.temp, s.link.lineRate, s.link.replies, s.link.transmitter⟩

section
variable {s t u : State}

theorem rateHeld_congr (h : settingsView t = settingsView s) (baud : Nat) : rateHeld t baud ↔ rateHeld s baud := by
  simp only [settingsView, SettingsView.mk.injEq] at h
  obtain ⟨-, -, -, -, hline, hreplies, htx⟩ := h
  rw [rateHeld, rateHeld, hline, hreplies, htx]

theorem SettingsKept.of_view (h : settingsView t = settingsView s) : SettingsKept s t :=
  ⟨congrArg (·.pending) h, congrArg (·.phase) h, congrArg (·.params) h, congrArg (·.temp) h,
    fun baud hr => .inl ((rateHeld_congr h baud).mp hr)⟩

theorem SettingsKept.refl (s : State) : SettingsKept s s := .of_view rfl

theorem SettingsKept.trans (h : SettingsKept s t) (k : SettingsKept t u) : SettingsKept s u :=
  ⟨k.pending.trans h.pending, k.phase.trans h.phase, k.params.trans h.params, k.temp.trans h.temp,
    fun baud hr => (k.rates baud hr).elim (h.rates baud) .inr⟩

theorem SettingsKept.of_driveFrame (h : driveFrame s t) : SettingsKept s t := .of_view (by rw [h]; rfl)

/-- A reply joins the queue: a rate it brings must lie in its range. -/
theorem queueReply_settingsKept (q : QueuedReply) (s : State) (h : effectSound q) : SettingsKept s (queueReply q s) := by
  refine ⟨rfl, rfl, rfl, rfl, fun baud hr => ?_⟩
  obtain hline | ⟨p, hp, he⟩ | hsending := hr
  · exact .inl (.inl hline)
  · obtain hp | hp := List.mem_append.mp hp
    · exact .inl (.inr (.inl ⟨p, hp, he⟩))
    · rw [List.mem_singleton.mp hp] at he
      exact .inr (h baud he)
  · exact .inl (.inr (.inr hsending))

/-- R144: a reply without a change of line rate brings no rate. -/
theorem effectSound_of_nothing {q : QueuedReply} (h : q.effect = .nothing) : effectSound q := fun baud he => by
  rw [h] at he
  cases he

/-- R158: the answer to the entry taken. -/
theorem SettingsKept.answered (r : Request) (st : Status) (fields : List Byte) (h : SettingsKept s t) :
    SettingsKept s (answerEntry r st fields .nothing t) :=
  h.trans (.trans (t := { t with link := { t.link with table := markFirst isWaiting .executing t.link.table } }) (.of_view rfl)
    (queueReply_settingsKept _ _ (effectSound_of_nothing rfl)))

theorem answerEntry_settingsKept (r : Request) (st : Status) (fields : List Byte) (s : State) :
    SettingsKept s (answerEntry r st fields .nothing s) := (SettingsKept.refl s).answered r st fields

/-- R157: the end of deferred work. -/
theorem finishWork_settingsKept (work : Work) (st : Status) (fields : List Byte) (s : State) :
    SettingsKept s (finishWork work st fields s) := by
  refine ⟨rfl, rfl, rfl, rfl, fun baud hr => ?_⟩
  obtain hline | ⟨q, hq, he⟩ | hsending := hr
  · exact .inl (.inl hline)
  · obtain hq | hq := List.mem_append.mp hq
    · exact .inl (.inr (.inl ⟨q, hq, he⟩))
    · obtain ⟨r, -, rfl⟩ := List.mem_map.mp hq
      cases he
  · exact .inl (.inr (.inr hsending))

end

/-! ### The Control Line -/

/-- R161: an immediate answer without a change of line rate. -/
theorem queueAnswer_settingsKept {q : QueuedReply} (h : q.effect = .nothing) (s : State) : SettingsKept s (queueAnswer q s) := by
  obtain ⟨-, e⟩ | ⟨-, e⟩ := queueAnswer_cases q s
  · rw [e]; exact queueReply_settingsKept q s (effectSound_of_nothing h)
  · rw [e]; exact .of_view rfl

theorem openSession_settingsKept (seq : Byte) (s : State) : SettingsKept s (openSession seq s) :=
  .trans (t := { s with link := { s.link with counters := .zero, sessionOpen := true } }) (.of_view rfl)
    (queueAnswer_settingsKept rfl _)

theorem reopenTransmitter_sendingReply {tx : Transmitter} {q : QueuedReply} {cacheable : Bool}
    (h : reopenTransmitter tx = .sendingReply q cacheable) : ∃ c, tx = .sendingReply q c := by
  cases tx with
  | idle => cases h
  | sendingReply p c => cases h; exact ⟨c, rfl⟩
  | sendingNotice _ _ => cases h

/-- R152: a reopening drops the replies that wait, and leaves the one on the line its effect. -/
theorem reopenSession_settingsKept (seq : Byte) (s : State) : SettingsKept s (reopenSession seq s) := by
  unfold reopenSession
  refine .trans ?_ (queueAnswer_settingsKept rfl _)
  refine ⟨rfl, rfl, rfl, rfl, fun baud hr => .inl ?_⟩
  obtain hline | ⟨q, hq, -⟩ | ⟨q, cacheable, htx, he⟩ := hr
  · exact .inl hline
  · cases hq
  · obtain ⟨c, htx⟩ := reopenTransmitter_sendingReply htx
    exact .inr (.inr ⟨q, c, htx, he⟩)

theorem judgeHello_settingsKept (seq : Byte) (payload : List Byte) (s : State) :
    SettingsKept s (judgeHello seq payload s) := by
  unfold judgeHello
  split
  · exact queueAnswer_settingsKept rfl s
  · split
    · exact reopenSession_settingsKept seq s
    · exact openSession_settingsKept seq s

/-- R151 to R153. -/
theorem takeHello_settingsKept (seq : Byte) (retry : Bool) (payload : List Byte) (s : State) :
    SettingsKept s (takeHello seq retry payload s) := by
  unfold takeHello
  split
  · exact .refl s
  · split
    · split
      · exact queueAnswer_settingsKept rfl s
      · exact judgeHello_settingsKept seq payload s
    · exact judgeHello_settingsKept seq payload s

theorem takeAsNew_settingsKept (seq code : Byte) (payload : List Byte) (s : State) :
    SettingsKept s (takeAsNew seq code payload s) := by
  unfold takeAsNew answerNobuf
  split
  · exact .of_view rfl
  · split
    · exact (queueReply_settingsKept _ s (effectSound_of_nothing rfl)).trans (.of_view rfl)
    · exact .of_view rfl

theorem replaceCached_settingsKept (seq code : Byte) (payload : List Byte) (s : State) :
    SettingsKept s (replaceCached seq code payload s) :=
  .trans (t := { s with link := { s.link with cache := cacheRemove s.link.cache seq } }) (.of_view rfl)
    (takeAsNew_settingsKept seq code payload _)

theorem admitRetry_settingsKept (seq code : Byte) (payload : List Byte) (s : State) :
    SettingsKept s (admitRetry seq code payload s) := by
  unfold admitRetry
  split
  · split
    · exact queueAnswer_settingsKept rfl s
    · exact replaceCached_settingsKept seq code payload s
  · split
    · exact .refl s
    · exact takeAsNew_settingsKept seq code payload s

theorem admitFresh_settingsKept (seq code : Byte) (payload : List Byte) (s : State) :
    SettingsKept s (admitFresh seq code payload s) := by
  unfold admitFresh
  split
  · exact queueAnswer_settingsKept rfl s
  · split
    · exact replaceCached_settingsKept seq code payload s
    · exact takeAsNew_settingsKept seq code payload s

/-- R150, R155. -/
theorem takeRequest_settingsKept (seq code : Byte) (retry : Bool) (payload : List Byte) (s : State) :
    SettingsKept s (takeRequest seq code retry payload s) := by
  unfold takeRequest
  split
  · split
    · exact admitRetry_settingsKept seq code payload s
    · exact admitFresh_settingsKept seq code payload s
  · exact queueAnswer_settingsKept rfl s

theorem testFrame_settingsKept (len : Nat) (held : List Byte) (low high : Byte) (s : State) :
    SettingsKept s (testFrame len held low high s) := by
  unfold testFrame
  split
  · split
    · split
      · split
        · exact takeHello_settingsKept _ _ _ s
        · exact takeRequest_settingsKept _ _ _ _ s
      · exact .of_view rfl
    · exact .refl s
  · exact .of_view rfl

/-- R147: the check of a completed frame. -/
theorem checkFrame_settingsKept (s : State) : SettingsKept s (checkFrame s) := by
  unfold checkFrame
  split
  · exact .trans (t := setReceiver .hunt s) (.of_view rfl) (testFrame_settingsKept _ _ _ _ _)
  · exact .refl s

theorem huntByte_settingsKept (value : Byte) (s : State) : SettingsKept s (huntByte value s) := by
  unfold huntByte
  split <;> exact .of_view rfl

/-- R146: a received byte. -/
theorem takeByte_settingsKept (value : Byte) (s : State) : SettingsKept s (takeByte value s) := by
  unfold takeByte lengthKnown
  split
  case h_1 => exact huntByte_settingsKept value s
  case h_3 => split <;> exact .of_view rfl
  case h_7 => exact (checkFrame_settingsKept s).trans (huntByte_settingsKept value _)
  all_goals exact .of_view rfl

theorem settleReply_settingsKept (q : QueuedReply) (cacheable : Bool) (s : State) :
    SettingsKept s (settleReply q cacheable s) := by
  unfold settleReply
  split
  · exact .of_view rfl
  · split <;> exact .of_view rfl
  · exact .refl s

/-! ### The rails and the evaluations -/

theorem haltedIfIdle_settingsKept (s : State) : SettingsKept s (haltedIfIdle s) := by
  obtain ⟨-, -, e⟩ | ⟨-, e⟩ := haltedIfIdle_cases s
  · rw [e]; exact .trans (t := { s with halt := .halted }) (.of_view rfl) (finishWork_settingsKept _ _ _ _)
  · rw [e]; exact .refl s

theorem advanceSlots_settingsKept (s : State) : SettingsKept s (advanceSlots s) := by
  unfold advanceSlots
  split
  · exact .of_driveFrame (driveFrame_foldl _ advanceSlot_driveFrame _ s)
  · exact (SettingsKept.of_driveFrame (abortAll_driveFrame _ s)).trans (haltedIfIdle_settingsKept _)
  · exact .refl s

theorem demandEndsInOn_settingsKept (s : State) : SettingsKept s (demandEndsInOn s) := by
  unfold demandEndsInOn
  dsimp only
  split <;> exact .of_view rfl

theorem judgeDemandEnd_settingsKept (s : State) : SettingsKept s (judgeDemandEnd s) := by
  unfold judgeDemandEnd
  split
  · exact demandEndsInOn_settingsKept s
  · exact .refl s

/-- R108: a frame boundary. -/
theorem deliverBoundary_settingsKept (s : State) : SettingsKept s (deliverBoundary s) :=
  (advanceSlots_settingsKept s).trans (.trans (.of_driveFrame (evaluateStarts_driveFrame _))
    (.trans (t := scheduleBoundary (evaluateStarts (advanceSlots s))) (.of_view rfl) (judgeDemandEnd_settingsKept _)))

/-- R98: entry into ON. -/
theorem enterOn_settingsKept (s : State) : SettingsKept s (enterOn s) := by
  have hon : SettingsKept s (railsOn s) := .of_view rfl
  unfold enterOn
  split
  · exact hon.trans (deliverBoundary_settingsKept _)
  · exact hon.trans (demandEndsInOn_settingsKept _)

/-- R96: entry into RISING. -/
theorem enterRising_settingsKept (s : State) : SettingsKept s (enterRising s) := by
  have hrising : SettingsKept s (railsRising s) := .of_view rfl
  unfold enterRising
  split
  · exact hrising.trans (enterOn_settingsKept _)
  · exact hrising

theorem demandAppears_settingsKept (s : State) : SettingsKept s (demandAppears s) := by
  unfold demandAppears
  split
  · exact enterRising_settingsKept s
  case h_4 => exact enterOn_settingsKept s
  all_goals exact .refl s

/-- R94: an evaluation away from a boundary. -/
theorem evaluate_settingsKept (s : State) : SettingsKept s (evaluate s) := by
  have hstarts : SettingsKept s (evaluateStarts s) := .of_driveFrame (evaluateStarts_driveFrame s)
  unfold evaluate
  split
  · exact hstarts.trans (demandAppears_settingsKept _)
  · exact hstarts

theorem SettingsKept.evaluated {s t : State} (h : SettingsKept s t) : SettingsKept s (evaluate t) :=
  h.trans (evaluate_settingsKept t)

/-- R103: entry into FAULT. -/
theorem enterFault_settingsKept (cause : FaultCause) (s : State) : SettingsKept s (enterFault cause s) := by
  unfold enterFault
  refine .trans (.of_view ?_) ((SettingsKept.of_driveFrame (abortAll_driveFrame _ _)).trans (haltedIfIdle_settingsKept _))
  rfl

/-- R105: a fast-fall request. -/
theorem fastFallRequest_settingsKept (s : State) : SettingsKept s (fastFallRequest s) := by
  unfold fastFallRequest
  split <;> exact .of_view rfl

theorem losePower_settingsKept (s : State) : SettingsKept s (losePower s) := by
  unfold losePower loseSettling
  split
  case h_2 =>
    split
    · split
      · exact enterFault_settingsKept _ s
      · exact .of_view rfl
    · exact .refl s
  case h_3 | h_4 => exact enterFault_settingsKept _ s
  all_goals exact .refl s

theorem fallEnds_settingsKept (s : State) : SettingsKept s (fallEnds s) := by
  have hoff : SettingsKept s { s with rails := { s.rails with state := .off, fallTimer := none } } := .of_view rfl
  unfold fallEnds
  dsimp only
  split
  · exact hoff.trans (enterRising_settingsKept _)
  · exact hoff

theorem setBank_settingsKept (bank : BankId) (v : Bank) (s : State) : SettingsKept s (setBank bank v s) :=
  .of_driveFrame (setBank_driveFrame bank v s)

end Sys2Proof.Machine
end

section
/-! Which requests and events leave the settings as they were: all but a Set Parameter, the steps of the Temperature Monitor, the
resets and the two steps of start-up. -/

namespace Sys2Proof.Machine

/-! ### Requests -/

section
variable (r : Request) (s : State)

theorem reportStatus_settingsKept : SettingsKept s (reportStatus r s) := by
  unfold reportStatus
  split <;> exact answerEntry_settingsKept _ _ _ s

theorem reportParameter_settingsKept : SettingsKept s (reportParameter r s) := by
  unfold reportParameter
  split <;> exact answerEntry_settingsKept _ _ _ s

/-- R182, R183: the reply of a Restart is followed by no change of line rate. -/
theorem takeRestart_settingsKept : SettingsKept s (takeRestart r s) := by
  unfold takeRestart
  split
  · exact answerEntry_settingsKept _ _ _ s
  · have hreply : effectSound (entryReply r .ok [] .restart) := fun _ he => (nomatch he)
    exact .trans (.trans (t := { s with link := { s.link with table := markFirst isWaiting .executing s.link.table } })
      (.of_view rfl) (queueReply_settingsKept _ _ hreply)) (.of_view rfl)

theorem grant_settingsKept : SettingsKept s (grant r s) := by
  unfold grant
  split
  · exact answerEntry_settingsKept _ _ _ s
  · exact .answered _ _ _ (.of_view rfl)

/-- R14: an accepted update. -/
theorem submitUpdate_settingsKept : SettingsKept s (submitUpdate r s) := by
  unfold submitUpdate
  split
  · exact answerEntry_settingsKept _ _ _ s
  · split
    · exact answerEntry_settingsKept _ _ _ s
    · exact .evaluated (.answered _ _ _ (.of_view rfl))

theorem cancelUpdate_settingsKept : SettingsKept s (cancelUpdate r s) := by
  unfold cancelUpdate
  split
  · exact answerEntry_settingsKept _ _ _ s
  · split
    · exact .evaluated (.answered _ _ _ (.of_view rfl))
    · split <;> exact answerEntry_settingsKept _ _ _ s

theorem queryUpdate_settingsKept : SettingsKept s (queryUpdate r s) := by
  unfold queryUpdate
  split <;> exact answerEntry_settingsKept _ _ _ s

theorem flushIfAsked_settingsKept (flush : Bool) : SettingsKept s (flushIfAsked flush s) :=
  .of_driveFrame (flushIfAsked_frame flush s).1

/-- R54 to R57: a Halt begun. -/
theorem beginHalt_settingsKept (flush : Bool) : SettingsKept s (beginHalt flush s) := by
  have hdeferred : SettingsKept s (deferEntry .halt { s with halt := .halting }) := .of_view rfl
  exact ((hdeferred.trans (flushIfAsked_settingsKept _ flush)).trans (fastFallRequest_settingsKept _)).trans
    ((SettingsKept.of_driveFrame (abortUnlessOn_driveFrame _)).trans (haltedIfIdle_settingsKept _))

/-- R54, R57. -/
theorem takeHalt_settingsKept : SettingsKept s (takeHalt r s) := by
  unfold takeHalt
  split
  · exact answerEntry_settingsKept _ _ _ s
  · split
    case h_3 => exact .answered _ _ _ ((flushIfAsked_settingsKept s _).trans (fastFallRequest_settingsKept _))
    all_goals exact beginHalt_settingsKept s _

/-- R58. -/
theorem takeResume_settingsKept : SettingsKept s (takeResume r s) := by
  unfold takeResume
  split
  · exact answerEntry_settingsKept _ _ _ s
  · split
    case h_3 => exact .evaluated (.answered _ _ _ (.of_view rfl))
    all_goals exact answerEntry_settingsKept _ _ _ s

theorem openBank_settingsKept : SettingsKept s (openBank r s) := by
  unfold openBank
  split
  · exact answerEntry_settingsKept _ _ _ s
  · split
    case h_1 | h_2 | h_3 => exact .answered _ _ _ (setBank_settingsKept _ _ s)
    all_goals exact answerEntry_settingsKept _ _ _ s

theorem storeBankData_settingsKept : SettingsKept s (storeBankData r s) := by
  unfold storeBankData
  split
  · exact answerEntry_settingsKept _ _ _ s
  · split
    case h_1 => exact .answered _ _ _ (setBank_settingsKept _ _ s)
    all_goals exact answerEntry_settingsKept _ _ _ s

theorem beginVerify_settingsKept : SettingsKept s (beginVerify r s) := by
  unfold beginVerify
  split
  · exact answerEntry_settingsKept _ _ _ s
  · split
    case h_1 =>
      split
      · exact answerEntry_settingsKept _ _ _ s
      · exact (setBank_settingsKept _ _ s).trans (.of_view rfl)
    all_goals exact answerEntry_settingsKept _ _ _ s

theorem activateBank_settingsKept (bank : BankId) : SettingsKept s (activateBank bank s) :=
  (setBank_settingsKept _ _ _).trans (setBank_settingsKept _ _ _)

theorem takeActivate_settingsKept : SettingsKept s (takeActivate r s) := by
  unfold takeActivate
  split
  · exact answerEntry_settingsKept _ _ _ s
  · split
    case h_5 | h_6 => exact .answered _ _ _ (activateBank_settingsKept s _)
    all_goals exact answerEntry_settingsKept _ _ _ s

theorem eraseBank_settingsKept : SettingsKept s (eraseBank r s) := by
  unfold eraseBank
  split
  · exact answerEntry_settingsKept _ _ _ s
  · split
    case h_2 | h_3 => exact .answered _ _ _ (setBank_settingsKept _ _ s)
    all_goals exact answerEntry_settingsKept _ _ _ s

/-- R106. -/
theorem clearFault_settingsKept : SettingsKept s (clearFault r s) := by
  unfold clearFault
  split
  · exact answerEntry_settingsKept _ _ _ s
  · split
    · exact .evaluated (.answered _ _ _ (.of_view rfl))
    · exact answerEntry_settingsKept _ _ _ s

theorem takeLoadOpen_settingsKept : SettingsKept s (takeLoadOpen r s) := by
  unfold takeLoadOpen
  split
  · exact answerEntry_settingsKept _ _ _ s
  · split
    · exact .answered _ _ _ (.of_view rfl)
    · exact .evaluated (.answered _ _ _ (.of_view rfl))

theorem takeLoadData_settingsKept : SettingsKept s (takeLoadData r s) := by
  unfold takeLoadData
  split
  · exact answerEntry_settingsKept _ _ _ s
  · split
    · exact answerEntry_settingsKept _ _ _ s
    · exact .answered _ _ _ (.of_view rfl)

theorem takeLoadClose_settingsKept : SettingsKept s (takeLoadClose r s) := by
  unfold takeLoadClose
  split
  · exact answerEntry_settingsKept _ _ _ s
  · split
    · exact answerEntry_settingsKept _ _ _ s
    · exact .evaluated ((answerEntry_settingsKept r _ _ s).trans (.of_view rfl))

theorem takeReadPixels_settingsKept : SettingsKept s (takeReadPixels r s) := by
  unfold takeReadPixels
  split <;> exact answerEntry_settingsKept _ _ _ s

theorem takeJob_settingsKept (kind : JobKind) : SettingsKept s (takeJob r kind s) := by
  unfold takeJob
  split
  · exact answerEntry_settingsKept _ _ _ s
  · split
    · exact answerEntry_settingsKept _ _ _ s
    · exact .of_view rfl

theorem takeFill_settingsKept : SettingsKept s (takeFill r s) := by
  unfold takeFill
  split
  · exact answerEntry_settingsKept _ _ _ s
  · exact takeJob_settingsKept r s _

theorem takeCopy_settingsKept : SettingsKept s (takeCopy r s) := by
  unfold takeCopy
  split
  · exact answerEntry_settingsKept _ _ _ s
  · exact takeJob_settingsKept r s _

end

/-! ### Events -/

/-- What holds of the state after a command that completes. -/
def completesWith (P : State → Prop) : Host.Outcome State Fault Refusal → Prop
  | .next t => P t
  | .fault _ => False
  | .refused _ => False

theorem completesWith_iff (P : State → Prop) (o : Host.Outcome State Fault Refusal) :
    completesWith P o ↔ ∃ t, o = .next t ∧ P t := by
  cases o with
  | next t => exact ⟨fun h => ⟨t, rfl, h⟩, fun ⟨_, e, h⟩ => Host.Outcome.next.inj e ▸ h⟩
  | fault r => exact ⟨False.elim, fun ⟨_, e, _⟩ => (nomatch e)⟩
  | refused r => exact ⟨False.elim, fun ⟨_, e, _⟩ => (nomatch e)⟩

theorem completesWith_mono {P Q : State → Prop} {o : Host.Outcome State Fault Refusal} (h : ∀ t, P t → Q t)
    (k : completesWith P o) : completesWith Q o := by
  obtain ⟨t, e, ht⟩ := (completesWith_iff P o).mp k
  exact (completesWith_iff Q o).mpr ⟨t, e, h t ht⟩

section
variable (s : State)

theorem execFrame_settingsKept : completesWith (SettingsKept s) (execFrame s) := by
  unfold execFrame
  split
  · exact checkFrame_settingsKept s
  · exact .refl s

theorem execHello_settingsKept : completesWith (SettingsKept s) (execHello s) := by
  unfold execHello
  split
  · exact checkFrame_settingsKept s
  · exact .refl s

theorem execGapTimeout_settingsKept : completesWith (SettingsKept s) (execGapTimeout s) := by
  unfold execGapTimeout
  split
  · split <;> exact .of_view rfl
  · exact .refl s

theorem execUnknownCode_settingsKept : completesWith (SettingsKept s) (execUnknownCode s) := by
  unfold execUnknownCode
  split
  · exact .refl s
  · split
    · exact answerEntry_settingsKept _ _ _ s
    · exact .refl s

theorem execReceivedByte_settingsKept (value : Byte) : completesWith (SettingsKept s) (execReceivedByte value s) := by
  unfold execReceivedByte
  split
  · split
    · exact .of_view rfl
    · exact takeByte_settingsKept value s
  · exact .refl s

/-- R162: the oldest reply goes on the line and takes its effect with it. -/
theorem execReplyBegin_settingsKept : completesWith (SettingsKept s) (execReplyBegin s) := by
  unfold execReplyBegin
  split
  · rename_i q rest _ _ hreplies
    refine ⟨rfl, rfl, rfl, rfl, fun baud hr => .inl ?_⟩
    obtain hline | ⟨p, hp, he⟩ | ⟨p, cacheable, htx, he⟩ := hr
    · exact .inl hline
    · exact .inr (.inl ⟨p, hreplies ▸ List.mem_cons_of_mem q hp, he⟩)
    · cases htx
      exact .inr (.inl ⟨q, hreplies ▸ List.mem_cons_self, he⟩)
  · exact .refl s

/-- A transmitter without a reply holds no rate. -/
theorem setTransmitter_settingsKept {tx : Transmitter} (h : ∀ q cacheable, tx ≠ .sendingReply q cacheable) :
    SettingsKept s (setTransmitter tx s) := by
  refine ⟨rfl, rfl, rfl, rfl, fun baud hr => .inl ?_⟩
  obtain hline | hreplies | ⟨q, cacheable, htx, -⟩ := hr
  · exact .inl hline
  · exact .inr (.inl hreplies)
  · exact absurd htx (h q cacheable)

theorem execNoticeBegin_settingsKept : completesWith (SettingsKept s) (execNoticeBegin s) := by
  unfold execNoticeBegin
  split
  · rename_i n rest _ _ _ _
    split
    · exact .trans (t := { s with notices := noticeTaken rest s.notices }) (.of_view rfl)
        (setTransmitter_settingsKept _ fun _ _ h => (nomatch h))
    · exact .refl s
  · exact .refl s

theorem setTransmitter_idle_settingsKept : SettingsKept s (setTransmitter .idle s) :=
  setTransmitter_settingsKept s fun _ _ h => (nomatch h)

theorem execNoticeSent_settingsKept : completesWith (SettingsKept s) (execNoticeSent s) := by
  unfold execNoticeSent
  split
  · exact setTransmitter_idle_settingsKept s
  · exact .refl s
  · exact .refl s

/-- R138. -/
theorem execJobCompletion_settingsKept : completesWith (SettingsKept s) (execJobCompletion s) := by
  unfold execJobCompletion
  split
  · exact .refl s
  · rename_i j rest _
    split
    · exact .refl s
    · rename_i image _
      exact .evaluated (.trans (t := finishJob j rest image s) (.of_view rfl) (finishWork_settingsKept _ _ _ _))

theorem execVerificationComplete_settingsKept (bank : BankId) :
    completesWith (SettingsKept s) (execVerificationComplete bank s) := by
  unfold execVerificationComplete
  split
  · exact (setBank_settingsKept _ _ s).trans (finishWork_settingsKept _ _ _ _)
  · exact .refl s

theorem execFrameBoundary_settingsKept : completesWith (SettingsKept s) (execFrameBoundary s) := by
  unfold execFrameBoundary
  split
  · exact .refl s
  · exact deliverBoundary_settingsKept s

theorem execPowerGoodAssert_settingsKept : completesWith (SettingsKept s) (execPowerGoodAssert s) := by
  unfold execPowerGoodAssert
  split
  · exact .refl s
  · split <;> exact .of_view rfl

theorem execPowerGoodLoss_settingsKept : completesWith (SettingsKept s) (execPowerGoodLoss s) := by
  have hlow : SettingsKept s { s with powerGood := false } := .of_view rfl
  unfold execPowerGoodLoss
  split
  · split
    · exact hlow.trans (losePower_settingsKept _)
    · exact hlow
  · exact .refl s

theorem execRiseTimerExpiry_settingsKept : completesWith (SettingsKept s) (execRiseTimerExpiry s) := by
  unfold execRiseTimerExpiry
  split
  · split
    · exact .of_view rfl
    · exact enterFault_settingsKept _ s
  · exact .refl s

theorem execSettleTimerExpiry_settingsKept : completesWith (SettingsKept s) (execSettleTimerExpiry s) := by
  unfold execSettleTimerExpiry
  split
  · exact enterOn_settingsKept s
  · exact .refl s

theorem execHoldTimerExpiry_settingsKept : completesWith (SettingsKept s) (execHoldTimerExpiry s) := by
  unfold execHoldTimerExpiry
  split <;> exact .of_view rfl

theorem execFallTimerExpiry_settingsKept : completesWith (SettingsKept s) (execFallTimerExpiry s) := by
  unfold execFallTimerExpiry
  split
  · exact fallEnds_settingsKept s
  · exact .refl s

theorem execJobWritesPixel_settingsKept : completesWith (SettingsKept s) (execJobWritesPixel s) := by
  unfold execJobWritesPixel
  split
  · exact .refl s
  · split
    · exact .refl s
    · split <;> exact .of_view rfl

end

end Sys2Proof.Machine
end

section
/-! What a step can do to the settings, said once: a Set Parameter, the steps of the Temperature Monitor, the resets and the two steps
of start-up; every other command leaves them. With it, that a well-formed command completes and leaves the queue of commands. -/

namespace Sys2Proof.Machine

/-! ### The Parameter Table (R176, R177) -/

/-- R177: a value in range is held as it was stored. -/
theorem paramValue_paramStore_same {q : ParamId} {v : Nat} (h : paramInRange q v = true) (ps : Params) :
    paramValue q (paramStore q v ps) = v := by
  cases q with
  | tempSource =>
    have hv : v ≤ 1 := of_decide_eq_true h
    obtain rfl | rfl : v = 0 ∨ v = 1 := by omega
    · rfl
    · rfl
  | _ => rfl

theorem paramValue_paramStore_other {p q : ParamId} (h : p ≠ q) (v : Nat) (ps : Params) :
    paramValue p (paramStore q v ps) = paramValue p ps := by
  cases q <;> cases p <;> simp [paramValue, paramStore] at h ⊢

theorem paramsInRange_paramStore {q : ParamId} {v : Nat} {ps : Params} (h : paramInRange q v = true)
    (hps : paramsInRange ps) : paramsInRange (paramStore q v ps) := fun p => by
  by_cases hp : p = q
  · rw [hp, paramValue_paramStore_same h]; exact h
  · rw [paramValue_paramStore_other hp]; exact hps p

theorem paramStore_tempSource {q : ParamId} (h : q ≠ .tempSource) (v : Nat) (ps : Params) :
    (paramStore q v ps).tempSource = ps.tempSource := by
  cases q with
  | tempSource => exact absurd rfl h
  | _ => rfl

theorem paramsInRange_default : paramsInRange Params.default := paramsLaw_reset.1

/-- R177: a Set Parameter that passes its checks carries a value in range. -/
theorem inRange_of_setParameterFields {p : List Byte} {q : ParamId} {v : Nat} (h : setParameterFields p = .ok (q, v)) :
    paramInRange q v = true := by
  unfold setParameterFields at h
  split at h
  · cases h
  split at h
  · cases h
  split at h
  · rename_i hrange
    cases h
    exact hrange
  · cases h

/-! ### The Temperature Monitor -/

/-- R90: the Temperature Monitor after a change of TEMP_SOURCE. -/
def sourceTemp (ps : Params) : TempMonitor :=
  match ps.tempSource with
  | .fromSensor => { reading := none, converting := true, nextStart := some ps.samplePeriod }
  | .fromHost => { reading := none, converting := false, nextStart := none }

theorem sourceChanged_eq (s : State) : sourceChanged s = { s with temp := sourceTemp s.params } := by
  unfold sourceChanged sourceTemp
  cases s.params.tempSource <;> rfl

section
variable {s t : State}

theorem SettingsKept.with_temp (h : SettingsKept s t) (temp : TempMonitor) :
    SettingsKept { s with temp := temp } { t with temp := temp } :=
  ⟨h.pending, h.phase, h.params, rfl, h.rates⟩

/-- R84, R85: the reading taken, at age 0. -/
theorem setReading_settingsKept (value : Int) (s : State) :
    SettingsKept { s with temp := { s.temp with reading := some { value := value, age := 0 } } } (setReading value s) := by
  unfold setReading
  dsimp only
  split
  · exact .refl _
  · exact .evaluated (.refl _)

/-- R86, R87: the reading a second older. -/
theorem ageReading_settingsKept (g : Reading) (s : State) :
    SettingsKept { s with temp := { s.temp with reading := some { g with age := min 65535 (g.age + 1) } } }
      (ageReading g s) := by
  unfold ageReading
  dsimp only
  split <;> exact .of_view rfl

theorem limitChanged_settingsKept (wasValid : Bool) (s : State) : SettingsKept s (limitChanged wasValid s) := by
  unfold limitChanged
  split
  · exact .refl s
  · split
    · exact .of_view rfl
    · split
      · exact evaluate_settingsKept s
      · exact .refl s

/-- R82: the law speaks of the Temperature Monitor and its source. -/
theorem TemperatureLaw.congr (h : TemperatureLaw s) (htemp : t.temp = s.temp)
    (hsource : t.params.tempSource = s.params.tempSource) : TemperatureLaw t := by
  unfold TemperatureLaw at *
  rw [htemp, hsource]
  exact h

theorem TemperatureLaw.with_reading (h : TemperatureLaw s) {g : Reading} (hlow : -40 ≤ g.value) (hhigh : g.value ≤ 85)
    (hage : g.age ≤ 65535) : TemperatureLaw { s with temp := { s.temp with reading := some g } } := by
  refine ⟨fun r hr => ?_, h.2⟩
  cases hr
  exact ⟨hlow, hhigh, hage⟩

/-- R84: the end of a conversion. -/
theorem TemperatureLaw.converted (h : TemperatureLaw s) :
    TemperatureLaw { s with temp := { s.temp with converting := false } } :=
  ⟨h.1, fun hhost => ⟨rfl, (h.2 hhost).2⟩⟩

/-- R83: a conversion starts with source INTERNAL alone. -/
theorem TemperatureLaw.started (h : TemperatureLaw s) (hsource : s.params.tempSource = .fromSensor) :
    TemperatureLaw (startConversion s) :=
  ⟨h.1, fun hhost => by cases hsource.symm.trans hhost⟩

theorem temperatureLaw_sourceTemp (s : State) : TemperatureLaw { s with temp := sourceTemp s.params } := by
  unfold sourceTemp
  cases hsource : s.params.tempSource with
  | fromSensor => exact ⟨fun _ hr => (nomatch hr), fun hhost => by cases hsource.symm.trans hhost⟩
  | fromHost => exact ⟨fun _ hr => (nomatch hr), fun _ => ⟨rfl, rfl⟩⟩

end

/-- R84: the limits of a result. -/
theorem roundSensor_range (r : SensorResult) : -40 ≤ roundSensor r ∧ roundSensor r ≤ 85 := by
  unfold roundSensor
  omega

/-- R85: the limits of a reported value. -/
theorem range_of_temperatureFields {p : List Byte} {v : Int} (h : temperatureFields p = .ok v) : -40 ≤ v ∧ v ≤ 85 := by
  unfold temperatureFields at h
  split at h
  · cases h
  split at h
  · cases h
  · cases h
    omega

/-! ### What a step does to the settings -/

/-- What a step can do to the settings: the parameters and the Temperature Monitor take values that keep to their ranges and their
law; a pin reset; or one of the two steps of start-up. -/
inductive MonitorStep (s t : State) : Prop
  | moved (params : Params) (temp : TempMonitor) (hkept : SettingsKept { s with params := params, temp := temp } t)
      (hparams : paramsInRange s.params → paramsInRange params)
      (htemp : TemperatureLaw s → TemperatureLaw { s with params := params, temp := temp })
  | reset (h : t = afterPinReset s)
  | startUp (hphase : s.phase = .resetHeld) (h : t = startConversion { s with phase := .startUp })
  | startUpEnd (hphase : s.phase = .startUp) (h : t = receiverAtStartUpEnd { s with phase := .running })

section
variable {s t : State}

theorem MonitorStep.of_kept (h : SettingsKept s t) : MonitorStep s t := .moved s.params s.temp h id id

theorem MonitorStep.of_temp (temp : TempMonitor) (h : SettingsKept { s with temp := temp } t)
    (hlaw : TemperatureLaw s → TemperatureLaw { s with temp := temp }) : MonitorStep s t := .moved s.params temp h id hlaw

/-- R158: a taking does what the request does. -/
theorem dispatch_monitorStep (code : RequestCode) {run : Request → State → State} (h : ∀ r, MonitorStep s (run r s)) :
    MonitorStep s (dispatch code run s) := by
  obtain e | ⟨r, -, e⟩ := dispatch_cases code run s
  · rw [e]; exact .of_kept (.refl s)
  · rw [e]; exact h r

theorem dispatch_kept (code : RequestCode) {run : Request → State → State} (h : ∀ r, SettingsKept s (run r s)) :
    MonitorStep s (dispatch code run s) := dispatch_monitorStep code fun r => .of_kept (h r)

theorem monitorStep_of_kept {o : Host.Outcome State Fault Refusal} (h : completesWith (SettingsKept s) o) :
    completesWith (MonitorStep s) o := completesWith_mono (fun _ k => .of_kept k) h

end

/-! ### Set Parameter and the steps of the Temperature Monitor -/

/-- R177: the answer to a Set Parameter, whose rate, where it has one, lies in its range. -/
theorem answerEntry_parameter_settingsKept {q : ParamId} {v : Nat} (h : paramInRange q v = true) (r : Request)
    (fields : List Byte) (s : State) : SettingsKept s (answerEntry r .ok fields (parameterEffect q v) s) := by
  refine .trans (t := { s with link := { s.link with table := markFirst isWaiting .executing s.link.table } }) (.of_view rfl)
    (queueReply_settingsKept _ _ fun baud he => ?_)
  cases q with
  | lineRate => cases he; exact h
  | _ => cases he

/-- R177: a value stored, and the blocks that act on it. -/
theorem changeParameter_monitorStep {q : ParamId} {v : Nat} (h : paramInRange q v = true) (r : Request) (s : State) :
    MonitorStep s (changeParameter r q v s) := by
  have hanswer := answerEntry_parameter_settingsKept h r (paramRecord q (paramStore q v s.params))
    { s with params := paramStore q v s.params }
  have hparams : paramsInRange s.params → paramsInRange (paramStore q v s.params) := paramsInRange_paramStore h
  have hlaw (hq : q ≠ .tempSource) (hs : TemperatureLaw s) : TemperatureLaw { s with params := paramStore q v s.params } :=
    hs.congr rfl (paramStore_tempSource hq v s.params)
  unfold changeParameter parameterActs
  dsimp only
  split
  · rw [sourceChanged_eq]
    exact .moved _ _ (hanswer.with_temp _) hparams fun _ =>
      temperatureLaw_sourceTemp { s with params := paramStore .tempSource v s.params }
  · exact .moved _ _ (hanswer.trans (limitChanged_settingsKept _ _)) hparams (hlaw (by decide))
  · exact .moved _ _ hanswer hparams (hlaw ‹_›)

theorem setParameter_monitorStep (r : Request) (s : State) : MonitorStep s (setParameter r s) := by
  unfold setParameter
  split
  · exact .of_kept (answerEntry_settingsKept _ _ _ s)
  · rename_i q v hfields
    split
    · exact .of_kept (answerEntry_settingsKept _ _ _ s)
    · exact changeParameter_monitorStep (inRange_of_setParameterFields hfields) r s

theorem reportTemperature_monitorStep (r : Request) (s : State) : MonitorStep s (reportTemperature r s) := by
  unfold reportTemperature
  split
  · exact .of_kept (answerEntry_settingsKept _ _ _ s)
  · rename_i value hfields
    obtain ⟨hlow, hhigh⟩ := range_of_temperatureFields hfields
    split
    · exact .of_kept (answerEntry_settingsKept _ _ _ s)
    · exact .of_temp _ (.trans (.with_temp (answerEntry_settingsKept r .ok [] s) _) (setReading_settingsKept value _))
        fun h => h.with_reading hlow hhigh (Nat.zero_le _)

theorem execConversionStart_monitorStep (s : State) : completesWith (MonitorStep s) (execConversionStart s) := by
  unfold execConversionStart
  split
  · rename_i hsource _
    exact .of_temp _ (.refl (startConversion s)) fun h => h.started hsource
  · exact .of_kept (.refl s)

theorem execConversionComplete_monitorStep {result : SensorResult} (hresult : sensorResultWellFormed result = true)
    (s : State) : completesWith (MonitorStep s) (execConversionComplete result s) := by
  obtain ⟨hlow, hhigh⟩ := roundSensor_range result
  unfold execConversionComplete
  rw [if_pos hresult]
  split
  · have hread := setReading_settingsKept (roundSensor result) { s with temp := { s.temp with converting := false } }
    refine .of_temp _ hread fun h => ?_
    exact h.converted.with_reading (g := { value := roundSensor result, age := 0 }) hlow hhigh (Nat.zero_le _)
  · exact .of_kept (.refl s)

/-- R86: a present reading a second older is still in its ranges. -/
theorem ageReading_monitorStep {g : Reading} {s : State} (hg : s.temp.reading = some g) : MonitorStep s (ageReading g s) :=
  .of_temp _ (ageReading_settingsKept g s) fun h =>
    have ⟨hlow, hhigh, _⟩ := h.1 g hg
    h.with_reading hlow hhigh (Nat.min_le_left _ _)

theorem execAgeRise_monitorStep (s : State) : completesWith (MonitorStep s) (execAgeRise s) := by
  unfold execAgeRise
  split
  · exact .of_kept (.refl s)
  · exact ageReading_monitorStep ‹_›

theorem execReadingBecomesStale_monitorStep (s : State) : completesWith (MonitorStep s) (execReadingBecomesStale s) := by
  unfold execReadingBecomesStale
  split
  · exact .of_kept (.refl s)
  · split
    · exact ageReading_monitorStep ‹_›
    · exact .of_kept (.refl s)

/-! ### The end of a reply, the resets and start-up -/

/-- R144: the line takes a rate the part held. -/
theorem changeLineRate_settingsKept {s t : State} {baud : Nat} (h : SettingsKept s t) (hbaud : rateHeld s baud) :
    SettingsKept s (changeLineRate baud t) := by
  refine ⟨h.pending, h.phase, h.params, h.temp, fun b hr => ?_⟩
  obtain rfl | hdue := hr
  · exact .inl hbaud
  · exact h.rates b (.inr hdue)

/-- R92, R179, R183: the settings after a Restart. -/
theorem restartTakesEffect_monitorStep {s t : State} (h : SettingsKept s t) : MonitorStep s (restartTakesEffect t) := by
  refine .moved .default { reading := none, converting := true, nextStart := some Params.default.samplePeriod } ?_
    (fun _ => paramsInRange_default) fun _ => ⟨fun _ hr => (nomatch hr), fun hhost => (nomatch hhost)⟩
  rw [restartTakesEffect_eq]
  refine ⟨h.pending, h.phase, rfl, rfl, fun baud hr => .inr ?_⟩
  obtain rfl | ⟨q, hq, -⟩ | ⟨q, cacheable, htx, -⟩ := hr
  · rfl
  · cases hq
  · cases htx

theorem execReplySent_monitorStep (s : State) : completesWith (MonitorStep s) (execReplySent s) := by
  unfold execReplySent
  split
  · rename_i q cacheable htx
    have hkept := (settleReply_settingsKept q cacheable s).trans (setTransmitter_idle_settingsKept _)
    cases heffect : q.effect with
    | nothing => exact .of_kept hkept
    | lineRate baud =>
      exact .of_kept (changeLineRate_settingsKept (hkept.trans (checkFrame_settingsKept _))
        (.inr (.inr ⟨q, cacheable, htx, heffect⟩)))
    | restart => exact restartTakesEffect_monitorStep hkept
  · exact .of_kept (.refl s)
  · exact .of_kept (.refl s)

theorem execStartUp_monitorStep (s : State) : completesWith (MonitorStep s) (execStartUp s) := by
  unfold execStartUp
  split
  · exact .startUp ‹_› rfl
  · exact .of_kept (.refl s)
  · exact .of_kept (.refl s)

theorem execStartUpEnd_monitorStep (s : State) : completesWith (MonitorStep s) (execStartUpEnd s) := by
  unfold execStartUpEnd
  split
  · exact .of_kept (.refl s)
  · exact .startUpEnd ‹_› rfl
  · exact .of_kept (.refl s)

/-! ### Every command -/

/-- Every well-formed command completes, and does one of these things to the settings. -/
theorem exec_monitorStep {c : Instr} (hc : instrWellFormed c = true) (s : State) :
    completesWith (MonitorStep s) (exec c s) := by
  cases c with
  | frame => exact monitorStep_of_kept (execFrame_settingsKept s)
  | gapTimeout => exact monitorStep_of_kept (execGapTimeout_settingsKept s)
  | hello => exact monitorStep_of_kept (execHello_settingsKept s)
  | unknownCode => exact monitorStep_of_kept (execUnknownCode_settingsKept s)
  | getStatus => exact dispatch_kept _ (reportStatus_settingsKept · s)
  | getParameter => exact dispatch_kept _ (reportParameter_settingsKept · s)
  | setParameter => exact dispatch_monitorStep _ (setParameter_monitorStep · s)
  | restart => exact dispatch_kept _ (takeRestart_settingsKept · s)
  | grantNotices => exact dispatch_kept _ (grant_settingsKept · s)
  | submitUpdate => exact dispatch_kept _ (submitUpdate_settingsKept · s)
  | cancelUpdate => exact dispatch_kept _ (cancelUpdate_settingsKept · s)
  | queryUpdate => exact dispatch_kept _ (queryUpdate_settingsKept · s)
  | halt => exact dispatch_kept _ (takeHalt_settingsKept · s)
  | resume => exact dispatch_kept _ (takeResume_settingsKept · s)
  | bankOpen => exact dispatch_kept _ (openBank_settingsKept · s)
  | bankData => exact dispatch_kept _ (storeBankData_settingsKept · s)
  | bankVerify => exact dispatch_kept _ (beginVerify_settingsKept · s)
  | bankActivate => exact dispatch_kept _ (takeActivate_settingsKept · s)
  | bankErase => exact dispatch_kept _ (eraseBank_settingsKept · s)
  | temperatureReport => exact dispatch_monitorStep _ (reportTemperature_monitorStep · s)
  | clearFault => exact dispatch_kept _ (clearFault_settingsKept · s)
  | loadOpen => exact dispatch_kept _ (takeLoadOpen_settingsKept · s)
  | loadData => exact dispatch_kept _ (takeLoadData_settingsKept · s)
  | loadClose => exact dispatch_kept _ (takeLoadClose_settingsKept · s)
  | readPixels => exact dispatch_kept _ (takeReadPixels_settingsKept · s)
  | fill => exact dispatch_kept _ (takeFill_settingsKept · s)
  | copy => exact dispatch_kept _ (takeCopy_settingsKept · s)
  | jobCompletion => exact monitorStep_of_kept (execJobCompletion_settingsKept s)
  | verificationComplete bank => exact monitorStep_of_kept (execVerificationComplete_settingsKept s bank)
  | frameBoundary => exact monitorStep_of_kept (execFrameBoundary_settingsKept s)
  | powerGoodAssert => exact monitorStep_of_kept (execPowerGoodAssert_settingsKept s)
  | powerGoodLoss => exact monitorStep_of_kept (execPowerGoodLoss_settingsKept s)
  | riseTimerExpiry => exact monitorStep_of_kept (execRiseTimerExpiry_settingsKept s)
  | settleTimerExpiry => exact monitorStep_of_kept (execSettleTimerExpiry_settingsKept s)
  | holdTimerExpiry => exact monitorStep_of_kept (execHoldTimerExpiry_settingsKept s)
  | fallTimerExpiry => exact monitorStep_of_kept (execFallTimerExpiry_settingsKept s)
  | conversionStart => exact execConversionStart_monitorStep s
  | conversionComplete result => exact execConversionComplete_monitorStep hc s
  | ageRise => exact execAgeRise_monitorStep s
  | readingBecomesStale => exact execReadingBecomesStale_monitorStep s
  | replyBegin => exact monitorStep_of_kept (execReplyBegin_settingsKept s)
  | replySent => exact execReplySent_monitorStep s
  | noticeBegin => exact monitorStep_of_kept (execNoticeBegin_settingsKept s)
  | noticeSent => exact monitorStep_of_kept (execNoticeSent_settingsKept s)
  | pinReset => exact .reset rfl
  | startUp => exact execStartUp_monitorStep s
  | startUpEnd => exact execStartUpEnd_monitorStep s
  | receivedByte value => exact monitorStep_of_kept (execReceivedByte_settingsKept s value)
  | jobWritesPixel => exact monitorStep_of_kept (execJobWritesPixel_settingsKept s)

/-- A command that is not well formed is a conversion whose result is no number: it stops the part. -/
theorem exec_of_not_wellFormed {c : Instr} (h : instrWellFormed c = false) (s : State) :
    exec c s = .fault .sensorResultNotANumber := by
  cases c with
  | conversionComplete result => exact if_neg (Bool.eq_false_iff.mp h)
  | _ => cases h

theorem monitorStep_of_exec {c : Instr} {s t : State} (h : exec c s = .next t) : MonitorStep s t := by
  cases hc : instrWellFormed c with
  | true =>
    obtain ⟨u, hu, hstep⟩ := (completesWith_iff _ _).mp (exec_monitorStep hc s)
    cases hu.symm.trans h
    exact hstep
  | false => cases (exec_of_not_wellFormed hc s).symm.trans h

theorem MonitorStep.pending {s t : State} (h : MonitorStep s t) : t.pending = s.pending := by
  cases h with
  | moved _ _ hkept _ _ => exact hkept.pending
  | reset h => rw [h]; rfl
  | startUp _ h => rw [h]; rfl
  | startUpEnd _ h => rw [h]; rfl

/-- Settles O2: every well-formed command completes, and what it does to the settings leaves the queue of commands. -/
theorem commandsCompleteAndKeepTheQueue : Obligations.CommandsCompleteAndKeepTheQueue := by
  refine ⟨fun c s t h => (monitorStep_of_exec h).pending, fun c s hc => ?_, fun n s => exec_of_not_wellFormed rfl s⟩
  obtain ⟨t, ht, -⟩ := (completesWith_iff _ _).mp (exec_monitorStep hc s)
  exact ⟨t, ht⟩

end Sys2Proof.Machine
end

section
/-! Every step keeps the parameters, the line rates and the Temperature Monitor in their ranges (R82, R144, R176), and the part in its
pin-reset values while the reset input is asserted (R184, R185): out of normal running most commands find nothing to act on. -/

namespace Sys2Proof.Machine

/-! ### The ranges (R82, R144, R176) -/

section
variable {s t : State}

theorem ParamsLaw.kept (h : ParamsLaw s) (hkept : SettingsKept s t) : ParamsLaw t := by
  obtain ⟨hparams, hrates⟩ := (paramsLaw_iff s).mp h
  exact (paramsLaw_iff t).mpr ⟨hkept.params ▸ hparams, fun baud hr => (hkept.rates baud hr).elim (hrates baud) id⟩

theorem TemperatureLaw.kept (h : TemperatureLaw s) (hkept : SettingsKept s t) : TemperatureLaw t :=
  h.congr hkept.temp (congrArg Params.tempSource hkept.params)

/-- R184: while the reset input is asserted the part is as a pin reset left it. -/
theorem ResetLaw.of_held (h : ResetLaw s) (hphase : s.phase = .resetHeld) : s = afterPinReset s := h.1 hphase

/-- R82, R144, R176: whatever a step does to the settings, they stay in their ranges. -/
theorem MonitorStep.keeps (h : MonitorStep s t) (hreset : ResetLaw s) (hparams : ParamsLaw s) (htemp : TemperatureLaw s) :
    ParamsLaw t ∧ TemperatureLaw t := by
  cases h with
  | moved params temp hkept hparams' htemp' =>
    obtain ⟨hrange, hrates⟩ := (paramsLaw_iff s).mp hparams
    have hmoved : ParamsLaw { s with params := params, temp := temp } := (paramsLaw_iff _).mpr ⟨hparams' hrange, hrates⟩
    exact ⟨hmoved.kept hkept, (htemp' htemp).kept hkept⟩
  | reset h => rw [h]; exact ⟨paramsLaw_reset, temperatureLaw_reset⟩
  | startUp hphase h =>
    have hsource : s.params.tempSource = .fromSensor := by rw [hreset.of_held hphase]; rfl
    rw [h]
    exact ⟨hparams, TemperatureLaw.started (s := { s with phase := .startUp }) htemp hsource⟩
  | startUpEnd hphase h => rw [h]; exact ⟨hparams, htemp⟩

end

/-! ### Reset and start-up (R184, R185) -/

/-- The part in start-up: a pin reset's values, with a Temperature Monitor that runs and the notices it offers. -/
def inStartUp (s : State) (temp : TempMonitor) (notices : NoticeQueue) : State :=
  { afterPinReset s with phase := .startUp, temp := temp, notices := notices }

section
variable {s t : State}

theorem ResetLaw.of_startUp (h : ResetLaw s) (hphase : s.phase = .startUp) : s = inStartUp s s.temp s.notices := h.2 hphase

theorem ResetLaw.running (h : s.phase = .running) : ResetLaw s :=
  ⟨fun hheld => absurd (h.symm.trans hheld) (by decide), fun hstart => absurd (h.symm.trans hstart) (by decide)⟩

theorem resetLaw_afterPinReset (s : State) : ResetLaw (afterPinReset s) := ⟨fun _ => rfl, fun h => (nomatch h)⟩

theorem resetLaw_inStartUp (s : State) (temp : TempMonitor) (notices : NoticeQueue) : ResetLaw (inStartUp s temp notices) :=
  ⟨fun h => (nomatch h), fun _ => rfl⟩

/-- Out of normal running every block but the Temperature Monitor and the Notice Queue rests. -/
structure Dormant (s : State) : Prop where
  notRunning : s.phase ≠ .running
  transmitter : s.link.transmitter = .idle
  queue : s.queue = []
  jobs : s.raster.jobs = []
  banks : ∀ bank, (bankAt s bank).state = .empty
  rails : s.rails.state = .off
  frameTimer : s.frameTimer = .stopped

theorem dormant_afterPinReset (s : State) : Dormant (afterPinReset s) where
  notRunning := fun h => (nomatch h)
  transmitter := rfl
  queue := rfl
  jobs := rfl
  banks := fun bank => by cases bank <;> rfl
  rails := rfl
  frameTimer := rfl

theorem dormant_inStartUp (s : State) (temp : TempMonitor) (notices : NoticeQueue) : Dormant (inStartUp s temp notices) :=
  { dormant_afterPinReset s with notRunning := fun h => (nomatch h) }

theorem ResetLaw.dormant (h : ResetLaw s) (hphase : s.phase ≠ .running) : Dormant s := by
  cases hp : s.phase with
  | resetHeld => rw [h.of_held hp]; exact dormant_afterPinReset s
  | startUp => rw [h.of_startUp hp]; exact dormant_inStartUp s s.temp s.notices
  | running => exact absurd hp hphase

/-- R27: with no entry queued an evaluation does nothing. -/
theorem evaluate_of_empty (h : s.queue = []) : evaluate s = s := by
  have hstarts : evaluateStarts s = s := by rw [evaluateStarts, h]; rfl
  unfold evaluate
  rw [hstarts]
  exact if_neg fun hd => by cases hd.1.symm.trans hd.2

theorem nextRequest_of_not_running (h : s.phase ≠ .running) : nextRequest s = none := if_neg fun hr => h hr.1

/-- The steps that may change a part out of normal running: the power-good input, the Temperature Monitor, the resets. -/
def actsOutOfRunning : Instr → Bool
  | .powerGoodAssert | .powerGoodLoss | .conversionStart | .conversionComplete _ | .ageRise | .readingBecomesStale => true
  | .pinReset | .startUp | .startUpEnd => true
  | _ => false

/-- R184, R185: out of normal running every other command finds nothing to act on. -/
theorem exec_of_dormant (h : Dormant s) {c : Instr} (hc : actsOutOfRunning c = false) : exec c s = .next s := by
  have hrun := h.notRunning
  have hnone := nextRequest_of_not_running hrun
  cases c with
  | powerGoodAssert | powerGoodLoss | conversionStart | conversionComplete _ | ageRise | readingBecomesStale | pinReset
  | startUp | startUpEnd => cases hc
  | getStatus | getParameter | setParameter | restart | grantNotices | submitUpdate | cancelUpdate | queryUpdate | halt
  | resume | bankOpen | bankData | bankVerify | bankActivate | bankErase | temperatureReport | clearFault | loadOpen
  | loadData | loadClose | readPixels | fill | copy => exact congrArg Host.Outcome.next (dispatch_of_none _ _ hnone)
  | unknownCode => simp only [exec, execUnknownCode, hnone]
  | frame => exact if_neg hrun
  | gapTimeout => exact if_neg hrun
  | receivedByte value => exact if_neg hrun
  | hello => exact if_neg fun hr => hrun hr.1
  | replyBegin =>
    simp only [exec, execReplyBegin]
    split
    · exact absurd ‹_› hrun
    · rfl
  | noticeBegin =>
    simp only [exec, execNoticeBegin]
    split
    · exact absurd ‹_› hrun
    · rfl
  | replySent => simp only [exec, execReplySent, h.transmitter]
  | noticeSent => simp only [exec, execNoticeSent, h.transmitter]
  | jobCompletion => simp only [exec, execJobCompletion, h.jobs]
  | jobWritesPixel => simp only [exec, execJobWritesPixel, h.jobs]
  | verificationComplete bank => exact if_neg (by rw [h.banks bank]; decide)
  | frameBoundary => simp only [exec, execFrameBoundary, h.frameTimer]
  | riseTimerExpiry => simp only [exec, execRiseTimerExpiry, h.rails]
  | settleTimerExpiry => simp only [exec, execSettleTimerExpiry, h.rails]
  | holdTimerExpiry => simp only [exec, execHoldTimerExpiry, h.rails]
  | fallTimerExpiry => simp only [exec, execFallTimerExpiry, h.rails]

/-! ### The steps that act out of normal running -/

/-- The level of the power-good input is outside the part. -/
theorem ResetLaw.with_powerGood (h : ResetLaw s) (level : Bool) : ResetLaw { s with powerGood := level } :=
  ⟨fun hp => congrArg (fun x : State => { x with powerGood := level }) (h.of_held hp),
    fun hp => congrArg (fun x : State => { x with powerGood := level }) (h.of_startUp hp)⟩

theorem ResetLaw.with_pending (h : ResetLaw s) (rest : List Instr) : ResetLaw { s with pending := rest } :=
  ⟨fun hp => congrArg (fun x : State => { x with pending := rest }) (h.of_held hp),
    fun hp => congrArg (fun x : State => { x with pending := rest }) (h.of_startUp hp)⟩

/-- R185: in start-up the Temperature Monitor and the Notice Queue are free. -/
theorem ResetLaw.monitored (h : ResetLaw s) (hphase : s.phase ≠ .resetHeld) (temp : TempMonitor) (notices : NoticeQueue) :
    ResetLaw { s with temp := temp, notices := notices } :=
  ⟨fun hp => absurd hp hphase,
    fun hp => congrArg (fun x : State => { x with temp := temp, notices := notices }) (h.of_startUp hp)⟩

theorem ResetLaw.phase_ne_of_temp (h : ResetLaw s) (htemp : s.temp ≠ State.reset.temp) : s.phase ≠ .resetHeld := fun hp =>
  htemp (by rw [h.of_held hp]; rfl)

theorem execPowerGoodAssert_keepsReset (h : ResetLaw s) (hrun : s.phase ≠ .running) :
    holdsAfter ResetLaw (execPowerGoodAssert s) := by
  unfold execPowerGoodAssert
  split
  · exact h
  · split
    · exact absurd ‹_› hrun
    · exact h.with_powerGood true

theorem execPowerGoodLoss_keepsReset (h : ResetLaw s) (hrun : s.phase ≠ .running) :
    holdsAfter ResetLaw (execPowerGoodLoss s) := by
  unfold execPowerGoodLoss
  rw [if_neg hrun]
  split
  · exact h.with_powerGood false
  · exact h

theorem execConversionStart_keepsReset (h : ResetLaw s) : holdsAfter ResetLaw (execConversionStart s) := by
  unfold execConversionStart
  split
  · rename_i seconds _ hnext
    exact h.monitored (h.phase_ne_of_temp fun e => by rw [e] at hnext; cases hnext) _ s.notices
  · exact h

theorem setReading_of_empty (value : Int) (h : s.queue = []) :
    setReading value s = { s with temp := { s.temp with reading := some { value := value, age := 0 } } } := by
  unfold setReading
  dsimp only
  split
  · rfl
  · exact evaluate_of_empty h

theorem execConversionComplete_keepsReset (result : SensorResult) (h : ResetLaw s) (hqueue : s.queue = []) :
    holdsAfter ResetLaw (execConversionComplete result s) := by
  unfold execConversionComplete
  split
  · split
    · rename_i hconverting
      rw [setReading_of_empty (s := { s with temp := { s.temp with converting := false } }) _ hqueue]
      exact h.monitored (h.phase_ne_of_temp fun e => by rw [e] at hconverting; cases hconverting) _ s.notices
    · exact h
  · trivial

theorem ageReading_keepsReset (h : ResetLaw s) {g : Reading} (hg : s.temp.reading = some g) : ResetLaw (ageReading g s) := by
  have hphase := h.phase_ne_of_temp fun e => by rw [e] at hg; cases hg
  unfold ageReading
  dsimp only
  split <;> exact h.monitored hphase _ _

theorem execAgeRise_keepsReset (h : ResetLaw s) : holdsAfter ResetLaw (execAgeRise s) := by
  unfold execAgeRise
  split
  · exact h
  · exact ageReading_keepsReset h ‹_›

theorem execReadingBecomesStale_keepsReset (h : ResetLaw s) : holdsAfter ResetLaw (execReadingBecomesStale s) := by
  unfold execReadingBecomesStale
  split
  · exact h
  · split
    · exact ageReading_keepsReset h ‹_›
    · exact h

/-- R185: the release of the reset input. -/
theorem execStartUp_keepsReset (h : ResetLaw s) : holdsAfter ResetLaw (execStartUp s) := by
  unfold execStartUp
  split
  · rename_i hphase
    rw [h.of_held hphase]
    exact resetLaw_inStartUp s (startConversion (afterPinReset s)).temp .reset
  · exact h
  · exact h

theorem execStartUpEnd_keepsReset (h : ResetLaw s) : holdsAfter ResetLaw (execStartUpEnd s) := by
  unfold execStartUpEnd
  split
  · exact h
  · exact .running rfl
  · exact h

/-- R184, R185: out of normal running every command keeps the law. -/
theorem exec_keepsReset (h : ResetLaw s) (hrun : s.phase ≠ .running) (c : Instr) : holdsAfter ResetLaw (exec c s) := by
  have hdormant := h.dormant hrun
  cases hc : actsOutOfRunning c with
  | false => rw [exec_of_dormant hdormant hc]; exact h
  | true =>
    cases c with
    | powerGoodAssert => exact execPowerGoodAssert_keepsReset h hrun
    | powerGoodLoss => exact execPowerGoodLoss_keepsReset h hrun
    | conversionStart => exact execConversionStart_keepsReset h
    | conversionComplete result => exact execConversionComplete_keepsReset result h hdormant.queue
    | ageRise => exact execAgeRise_keepsReset h
    | readingBecomesStale => exact execReadingBecomesStale_keepsReset h
    | pinReset => exact resetLaw_afterPinReset s
    | startUp => exact execStartUp_keepsReset h
    | startUpEnd => exact execStartUpEnd_keepsReset h
    | _ => cases hc

/-- R184: from normal running the law is met again at a pin reset; no other step leaves normal running. -/
theorem MonitorStep.resetLaw (h : MonitorStep s t) (hrun : s.phase = .running) : ResetLaw t := by
  cases h with
  | moved _ _ hkept _ _ => exact .running (hkept.phase.trans hrun)
  | reset h => rw [h]; exact resetLaw_afterPinReset s
  | startUp hphase _ => cases hphase.symm.trans hrun
  | startUpEnd hphase _ => cases hphase.symm.trans hrun

end

/-- What holds of every command holds of a step: the idle step, or the front command on the queue's rest. -/
theorem step_cases {s t : State} (h : step s = .next t) :
    t = s ∨ ∃ c rest, s.pending = c :: rest ∧ exec c { s with pending := rest } = .next t := by
  unfold step at h
  split at h
  · cases h
    exact .inl rfl
  · rename_i c rest hpending
    exact .inr ⟨c, rest, hpending, h⟩

/-- Settles O58: the ranges by what a step can do to the settings; the reset values by the commands that act out of normal running. -/
theorem stepKeepsParametersAndReset : Obligations.StepKeepsParametersAndReset := by
  refine ⟨fun s t hparams hreset htemp hstep => ?_, fun s t hreset hstep => ?_⟩
  · obtain rfl | ⟨c, rest, -, hexec⟩ := step_cases hstep
    · exact ⟨hparams, htemp⟩
    · exact (monitorStep_of_exec hexec).keeps (hreset.with_pending rest) hparams htemp
  · obtain rfl | ⟨c, rest, -, hexec⟩ := step_cases hstep
    · exact hreset
    · by_cases hrun : s.phase = .running
      · exact (monitorStep_of_exec hexec).resetLaw hrun
      · exact holdsAfter_next (exec_keepsReset (hreset.with_pending rest) hrun c) hexec

end Sys2Proof.Machine
end

section
/-! The steps of the Temperature Monitor (R83 to R87, R89): conversion starts, the age, the rounded result of a conversion and the value
of a Temperature Report. -/

namespace Sys2Proof.Machine

section
variable {s : State} {g : Reading}

/-! ### Conversion starts (R83) -/

theorem exec_conversionStart_of_due (hsource : s.params.tempSource = .fromSensor) (hnext : s.temp.nextStart ≠ none) :
    exec .conversionStart s = .next (startConversion s) := by
  obtain ⟨seconds, hseconds⟩ := Option.ne_none_iff_exists'.mp hnext
  simp only [exec, execConversionStart, hsource, hseconds]

theorem exec_conversionStart_of_host (hsource : s.params.tempSource = .fromHost) : exec .conversionStart s = .next s := by
  simp only [exec, execConversionStart, hsource]

/-! ### The age (R86, R87) -/

theorem exec_ageRise (hg : s.temp.reading = some g) : exec .ageRise s = .next (ageReading g s) := by
  simp only [exec, execAgeRise, hg]

theorem exec_readingBecomesStale (hg : s.temp.reading = some g) (hage : g.age = s.params.staleLimit) :
    exec .readingBecomesStale s = .next (ageReading g s) := by
  simp only [exec, execReadingBecomesStale, hg, hage, if_true]

theorem ageReading_of_ne (hage : g.age ≠ s.params.staleLimit) : ageReading g s =
    { s with temp := { s.temp with reading := some { g with age := min 65535 (g.age + 1) } } } := if_neg hage

/-- R87: the rise from STALE_LIMIT, short of the greatest age. -/
theorem ageReading_of_limit (hage : g.age = s.params.staleLimit) (hlow : g.age < 65535) : ageReading g s =
    offerNotice (.tempStale g.value (g.age + 1))
      { s with temp := { s.temp with reading := some { g with age := g.age + 1 } } } := by
  have hrise : min 65535 (g.age + 1) = g.age + 1 := Nat.min_eq_right hlow
  simp only [ageReading, hage, if_true] at hrise ⊢
  rw [hrise]

end

/-- Settles O40, by the source, and by where the age stands against STALE_LIMIT. -/
theorem conversionsStartAndReadingsAge : Obligations.ConversionsStartAndReadingsAge := by
  refine ⟨fun s => ⟨exec_conversionStart_of_due, exec_conversionStart_of_host⟩, fun s g hg => ⟨fun hage => ?_,
    fun hage hlow => ⟨?_, ?_⟩⟩⟩
  · rw [exec_ageRise hg, ageReading_of_ne hage]
  · rw [exec_readingBecomesStale hg hage, ageReading_of_limit hage hlow]
  · rw [exec_ageRise hg, exec_readingBecomesStale hg hage]

/-! ### Conversions (R84) -/

/-- R84: where the nearest degree, a half upward, stands against a whole degree `t`. -/
theorem le_nearest_iff (n t : Int) {d : Nat} (hd : 0 < d) : t ≤ (2 * n + d) / (2 * d) ↔ 2 * d * t ≤ 2 * n + d := by
  rw [Int.le_ediv_iff_mul_le (by omega), mul_comm]

/-- R84: the nearest degree, limited: what the rounded result is inside the limits, below and above them. -/
theorem roundSensor_nearest (n : Int) {d : Nat} (hd : 0 < d) :
    (2 * d * (-40) ≤ 2 * n + d → 2 * n + d < 2 * d * 86 →
      2 * d * roundSensor { num := n, den := d } ≤ 2 * n + d ∧
        2 * n + d < 2 * d * (roundSensor { num := n, den := d } + 1)) ∧
    (2 * n + d < 2 * d * (-40) → roundSensor { num := n, den := d } = -40) ∧
    (2 * d * 86 ≤ 2 * n + d → roundSensor { num := n, den := d } = 85) := by
  have hlow := le_nearest_iff n (-40) hd
  have hhigh := le_nearest_iff n 86 hd
  have hself := le_nearest_iff n ((2 * n + d) / (2 * d)) hd
  have hnext := le_nearest_iff n ((2 * n + d) / (2 * d) + 1) hd
  simp only [roundSensor]
  generalize (2 * n + d) / (2 * d) = k at *
  refine ⟨fun h40 h86 => ?_, fun h40 => ?_, fun h86 => ?_⟩
  · have hk : max (-40) (min 85 k) = k := by
      have := hlow.mpr h40
      have := mt hhigh.mp (not_le.mpr h86)
      omega
    rw [hk]
    exact ⟨hself.mp le_rfl, not_le.mp (mt hnext.mpr (by omega))⟩
  · have := mt hlow.mp (not_le.mpr h40)
    omega
  · have := hhigh.mpr h86
    omega

/-- R84: a result that is a number, with a conversion in progress. -/
theorem exec_conversionComplete {s : State} (n : Int) {d : Nat} (hd : 0 < d) (hconverting : s.temp.converting = true) :
    exec (.conversionComplete { num := n, den := d }) s =
      .next (setReading (roundSensor { num := n, den := d }) { s with temp := { s.temp with converting := false } }) := by
  have hresult : sensorResultWellFormed { num := n, den := d } = true := bne_iff_ne.mpr (Nat.pos_iff_ne_zero.mp hd)
  simp only [exec, execConversionComplete, hresult, hconverting, if_true]

/-! ### Temperature Reports (R85) -/

theorem temperatureFields_of_length {p : List Byte} (h : p.length ≠ 1) : temperatureFields p = .error .badLength := if_pos h

theorem temperatureFields_of_outside {b : Byte} (h : b.toInt < -40 ∨ 85 < b.toInt) :
    temperatureFields [b] = .error .badField := if_pos h

theorem temperatureFields_of_range {b : Byte} (hlow : -40 ≤ b.toInt) (hhigh : b.toInt ≤ 85) :
    temperatureFields [b] = .ok b.toInt := by
  have hrange : ¬ (b.toInt < -40 ∨ 85 < b.toInt) := by omega
  exact if_neg hrange

section
variable {s : State} {r : Request}

theorem exec_temperatureReport (h : takes s .temperatureReport r) :
    exec .temperatureReport s = .next (reportTemperature r s) :=
  congrArg Host.Outcome.next (dispatch_of_takes reportTemperature h)

theorem reportTemperature_of_error {st : Status} (h : temperatureFields r.payload = .error st) :
    reportTemperature r s = answerEntry r st [] .nothing s := by
  rw [reportTemperature, h]

theorem reportTemperature_of_sensor {value : Int} (h : temperatureFields r.payload = .ok value)
    (hsource : s.params.tempSource = .fromSensor) : reportTemperature r s = answerEntry r .wrongState [] .nothing s := by
  simp only [reportTemperature, h, hsource]

theorem reportTemperature_of_host {value : Int} (h : temperatureFields r.payload = .ok value)
    (hsource : s.params.tempSource = .fromHost) :
    reportTemperature r s = setReading value (answerEntry r .ok [] .nothing s) := by
  simp only [reportTemperature, h, hsource]

end

/-- Settles O39: the rounding as a division, and each outcome of a report. -/
theorem readingsAreSet : Obligations.ReadingsAreSet := by
  refine ⟨fun s n d hd hconverting => ?_, fun s r htakes hlength => ?_, fun s r b htakes hp => ⟨fun houtside => ?_,
    fun hlow hhigh => ⟨fun hsource => ?_, fun hsource => ?_⟩⟩⟩
  · obtain ⟨hinside, hbelow, habove⟩ := roundSensor_nearest n hd
    obtain ⟨hlow, hhigh⟩ := roundSensor_range { num := n, den := d }
    exact ⟨_, hinside, hlow, hhigh, hbelow, habove, exec_conversionComplete n hd hconverting⟩
  · rw [exec_temperatureReport htakes, reportTemperature_of_error (temperatureFields_of_length hlength)]
  · rw [exec_temperatureReport htakes, reportTemperature_of_error (by rw [hp, temperatureFields_of_outside houtside])]
  all_goals have hfields : temperatureFields r.payload = .ok b.toInt := by rw [hp, temperatureFields_of_range hlow hhigh]
  · rw [exec_temperatureReport htakes, reportTemperature_of_sensor hfields hsource]
  · rw [exec_temperatureReport htakes, reportTemperature_of_host hfields hsource]
    rfl

end Sys2Proof.Machine
end

section
/-! Get Parameter and Set Parameter (R88, R90, R144, R177, R178): the fields of each, the value stored, and what a new TEMP_SOURCE or
STALE_LIMIT does. -/

namespace Sys2Proof.Machine

/-! ### The fields -/

theorem paramOf_eq_none {b : Byte} (h : ∀ q, paramByte q ≠ b) : paramOf b = none :=
  List.find?_eq_none.mpr fun q _ => by simpa using h q

theorem getParameterFields_of_length {p : List Byte} (h : p.length ≠ 1) : getParameterFields p = .error .badLength := if_pos h

theorem getParameterFields_of_unknown {b : Byte} (h : ∀ q, paramByte q ≠ b) : getParameterFields [b] = .error .badField := by
  simp [getParameterFields, paramOf_eq_none h]

theorem getParameterFields_of_param (q : ParamId) : getParameterFields [paramByte q] = .ok q := by
  simp [getParameterFields]

theorem setParameterFields_of_length {p : List Byte} (h : p.length ≠ 5) : setParameterFields p = .error .badLength := if_pos h

theorem setParameterFields_of_unknown {b : Byte} {v : List Byte} (hv : v.length = 4) (h : ∀ q, paramByte q ≠ b) :
    setParameterFields (b :: v) = .error .badField := by
  simp [setParameterFields, hv, paramOf_eq_none h]

/-- R177: check 3 on the value a Set Parameter carries. -/
theorem setParameterFields_of_param (q : ParamId) {v : Nat} (h : v < 4294967296) :
    setParameterFields (paramByte q :: leBytes 4 v) = if paramInRange q v then .ok (q, v) else .error .badValue := by
  have hv : fieldNat (paramByte q :: leBytes 4 v) 1 4 = v := by simpa using fieldNat_append [paramByte q] [] 4 v h
  simp [setParameterFields, hv]

section
variable {s : State} {r : Request}

/-! ### Get Parameter (R178) -/

theorem exec_getParameter (h : takes s .getParameter r) : exec .getParameter s = .next (reportParameter r s) :=
  congrArg Host.Outcome.next (dispatch_of_takes reportParameter h)

theorem reportParameter_of_error {st : Status} (h : getParameterFields r.payload = .error st) :
    reportParameter r s = answerEntry r st [] .nothing s := by
  rw [reportParameter, h]

theorem reportParameter_of_param {q : ParamId} (h : r.payload = [paramByte q]) :
    reportParameter r s = answerEntry r .ok (paramByte q :: leBytes 4 (paramValue q s.params)) .nothing s := by
  rw [reportParameter, h, getParameterFields_of_param]
  rfl

/-! ### Set Parameter (R177) -/

theorem exec_setParameter (h : takes s .setParameter r) : exec .setParameter s = .next (setParameter r s) :=
  congrArg Host.Outcome.next (dispatch_of_takes setParameter h)

theorem setParameter_of_error {st : Status} (h : setParameterFields r.payload = .error st) :
    setParameter r s = answerEntry r st [] .nothing s := by
  rw [setParameter, h]

section
variable {q : ParamId} {v : Nat}

theorem setParameter_of_equal (h : setParameterFields r.payload = .ok (q, v)) (hv : v = paramValue q s.params) :
    setParameter r s = answerEntry r .ok (paramByte q :: leBytes 4 v) .nothing s := by
  subst hv
  simp only [setParameter, h, if_true, paramRecord]

/-- R177: the answer to a Set Parameter that stores a new value, and the state it leaves before the blocks act. -/
def parameterStored (r : Request) (q : ParamId) (v : Nat) (s : State) : State :=
  answerEntry r .ok (paramByte q :: leBytes 4 v) (parameterEffect q v) { s with params := paramStore q v s.params }

theorem setParameter_of_change (h : setParameterFields r.payload = .ok (q, v)) (hrange : paramInRange q v = true)
    (hv : v ≠ paramValue q s.params) : setParameter r s = parameterActs q s (parameterStored r q v s) := by
  simp only [setParameter, h, if_neg hv, changeParameter, paramRecord, paramValue_paramStore_same hrange, parameterStored]

theorem parameterActs_of_other (hsource : q ≠ .tempSource) (hlimit : q ≠ .staleLimit) (before : State) :
    parameterActs q before s = s := by
  cases q with
  | tempSource => exact absurd rfl hsource
  | staleLimit => exact absurd rfl hlimit
  | _ => rfl

/-- R90: a new TEMP_SOURCE acts on the Temperature Monitor. -/
theorem parameterActs_tempSource (before s : State) :
    parameterActs .tempSource before s = { s with temp := sourceTemp s.params } := sourceChanged_eq s

/-- R88: a new STALE_LIMIT judges the reading. -/
theorem parameterActs_staleLimit (before s : State) :
    parameterActs .staleLimit before s = limitChanged (readingValid before) s := rfl

/-- R144: the one parameter whose reply is followed by a change of rate. -/
theorem parameterEffect_eq (q : ParamId) (v : Nat) :
    parameterEffect q v = if q = .lineRate then .lineRate v else .nothing := by
  cases q <;> rfl

end

/-! ### A new STALE_LIMIT (R88) -/

section
variable {g : Reading}

theorem readingValid_of_reading (hg : s.temp.reading = some g) :
    readingValid s = decide (g.age ≤ s.params.staleLimit) := by
  rw [readingValid, hg]

theorem limitChanged_of_none (h : s.temp.reading = none) (wasValid : Bool) : limitChanged wasValid s = s := by
  rw [limitChanged, h]

theorem limitChanged_of_same {wasValid : Bool} (h : wasValid = readingValid s) : limitChanged wasValid s = s := by
  subst h
  unfold limitChanged
  split
  · rfl
  · rw [if_neg (by simp), if_neg (by simp)]

theorem limitChanged_of_stale (hg : s.temp.reading = some g) (h : readingValid s = false) :
    limitChanged true s = offerNotice (.tempStale g.value g.age) s := by
  simp only [limitChanged, hg, h, and_self, if_true]

theorem limitChanged_of_valid (hg : s.temp.reading = some g) (h : readingValid s = true) :
    limitChanged false s = evaluate s := by
  simp [limitChanged, hg, h]

section
variable {v : Nat} (hg : s.temp.reading = some g)
include hg

/-- R88: the stored limit judges the reading at the age it has. -/
theorem readingValid_limitStored (r : Request) (v : Nat) :
    readingValid (parameterStored r .staleLimit v s) = decide (g.age ≤ v) :=
  readingValid_of_reading (s := parameterStored r .staleLimit v s) hg

theorem limitStored_same (h : decide (g.age ≤ s.params.staleLimit) = decide (g.age ≤ v)) :
    parameterActs .staleLimit s (parameterStored r .staleLimit v s) = parameterStored r .staleLimit v s :=
  limitChanged_of_same ((readingValid_of_reading hg).trans (h.trans (readingValid_limitStored hg r v).symm))

theorem limitStored_stale (hwas : g.age ≤ s.params.staleLimit) (his : v < g.age) :
    parameterActs .staleLimit s (parameterStored r .staleLimit v s) =
      offerNotice (.tempStale g.value g.age) (parameterStored r .staleLimit v s) := by
  have hbefore := (readingValid_of_reading hg).trans (decide_eq_true hwas)
  have hafter := (readingValid_limitStored hg r v).trans (decide_eq_false (Nat.not_le.mpr his))
  rw [parameterActs_staleLimit, hbefore, limitChanged_of_stale (s := parameterStored r .staleLimit v s) hg hafter]

theorem limitStored_valid (hwas : s.params.staleLimit < g.age) (his : g.age ≤ v) :
    parameterActs .staleLimit s (parameterStored r .staleLimit v s) = evaluate (parameterStored r .staleLimit v s) := by
  have hbefore := (readingValid_of_reading hg).trans (decide_eq_false (Nat.not_le.mpr hwas))
  have hafter := (readingValid_limitStored hg r v).trans (decide_eq_true his)
  rw [parameterActs_staleLimit, hbefore, limitChanged_of_valid (s := parameterStored r .staleLimit v s) hg hafter]

end

end

/-! ### The outcomes -/

/-- R178: Get Parameter, check by check. -/
theorem getParameter_outcomes (htakes : takes s .getParameter r) :
    (r.payload.length ≠ 1 → exec .getParameter s = .next (answerEntry r .badLength [] .nothing s)) ∧
    (∀ b : Byte, r.payload = [b] → (∀ q, paramByte q ≠ b) →
      exec .getParameter s = .next (answerEntry r .badField [] .nothing s)) ∧
    ∀ q : ParamId, r.payload = [paramByte q] →
      exec .getParameter s = .next (answerEntry r .ok (paramByte q :: leBytes 4 (paramValue q s.params)) .nothing s) := by
  rw [exec_getParameter htakes]
  refine ⟨fun hlength => ?_, fun b hp hunknown => ?_, fun q hp => ?_⟩
  · rw [reportParameter_of_error (getParameterFields_of_length hlength)]
  · rw [reportParameter_of_error (hp ▸ getParameterFields_of_unknown hunknown)]
  · rw [reportParameter_of_param hp]

end

/-- Settles O19: the checks on the fields, then the value stored and the block that acts on it. -/
theorem parametersAreReadAndStored : Obligations.ParametersAreReadAndStored := by
  refine ⟨fun s r => ⟨getParameter_outcomes, fun htakes => ?_⟩, fun q p v ps hrange =>
    ⟨paramValue_paramStore_same hrange ps, fun hp => paramValue_paramStore_other hp v ps⟩⟩
  rw [exec_setParameter htakes]
  refine ⟨fun hlength => ?_, fun b v hp hv hunknown => ?_, fun q v hp hv => ?_⟩
  · rw [setParameter_of_error (setParameterFields_of_length hlength)]
  · rw [setParameter_of_error (hp ▸ setParameterFields_of_unknown hv hunknown)]
  have hfields := hp ▸ setParameterFields_of_param q hv
  refine ⟨fun hrange => ?_, fun hrange hequal => ?_, fun hrange hchange => ?_⟩
  · rw [setParameter_of_error (st := .badValue) (by rw [hfields, hrange]; rfl)]
  all_goals rw [hrange, if_pos rfl] at hfields
  · rw [setParameter_of_equal hfields hequal]
  rw [setParameter_of_change hfields hrange hchange]
  refine ⟨fun hsource hlimit => ?_, ?_, ?_, ?_, ?_⟩
  · rw [parameterActs_of_other hsource hlimit, parameterStored, parameterEffect_eq]
  · rintro rfl rfl
    rw [parameterActs_tempSource]
    rfl
  · rintro rfl rfl
    rw [parameterActs_tempSource]
    rfl
  · rintro rfl hnone
    rw [parameterActs_staleLimit, limitChanged_of_none (s := parameterStored r .staleLimit v s) hnone]
    rfl
  · rintro rfl g hg
    refine ⟨fun hsame => ?_, fun hwas his => ?_, fun hwas his => ?_⟩
    · rw [limitStored_same hg hsame]
      rfl
    · rw [limitStored_stale hg hwas his]
      rfl
    · rw [limitStored_valid hg hwas his]
      rfl

end Sys2Proof.Machine
end

section
/-! The rails by their states: the entries into RISING, ON, HOLDING and FALLING by demand, power-good, SETTLE, HOLD_TIME and the
fast-fall request; the appearance of demand; the settle, hold and fall expiries (R94 to R100, R102). -/

namespace Sys2Proof.Machine

section
variable {s : State}

/-! ### The entries into the rail states -/

/-- R99, R105: the end of demand in ON, with a fast fall requested or HOLD_TIME 0. -/
theorem demandEndsInOn_of_fall (h : s.rails.fastFall = true ∨ s.params.holdTime = 0) :
    demandEndsInOn s = enterFalling { s with frameTimer := .stopped } := if_pos h

/-- R99: the end of demand in ON, with a time to hold. -/
theorem demandEndsInOn_of_hold (hslow : s.rails.fastFall = false) (hhold : 0 < s.params.holdTime) :
    demandEndsInOn s = enterHolding { s with frameTimer := .stopped } := by
  refine if_neg ?_
  rintro (hfast | hzero)
  · rw [hslow] at hfast
    cases hfast
  · exact hhold.ne' hzero

theorem enterOn_of_demand (h : demand s = true) : enterOn s = deliverBoundary (railsOn s) := if_pos h

theorem enterOn_of_idle (h : demand s = false) : enterOn s = demandEndsInOn (railsOn s) :=
  if_neg (Bool.eq_false_iff.mp h)

/-- R96: entry into RISING with power-good low. -/
theorem enterRising_of_low (hlow : s.powerGood = false) : enterRising s = { s with rails :=
    { Rails.reset with state := .rising, risePhase := some .waiting, riseTimer := .running s.params.riseLimit,
                       settleValue := some s.params.settle } } := by
  have hnot : ¬ (s.powerGood = true ∧ s.params.settle = 0) := fun h => Bool.eq_false_iff.mp hlow h.1
  rw [enterRising, if_neg hnot, railsRising, hlow]
  rfl

/-- R96: entry into RISING with power-good asserted and a time to settle. -/
theorem enterRising_of_settle (hgood : s.powerGood = true) (hsettle : 0 < s.params.settle) : enterRising s = { s with rails :=
    { Rails.reset with state := .rising, risePhase := some .settling, riseTimer := .running s.params.riseLimit,
                       settleValue := some s.params.settle, settleTimer := some s.params.settle } } := by
  have hnot : ¬ (s.powerGood = true ∧ s.params.settle = 0) := fun h => hsettle.ne' h.2
  rw [enterRising, if_neg hnot, railsRising, hgood]
  rfl

/-- R96, R98: entry into RISING with power-good asserted and SETTLE 0 goes on to ON and the first boundary. -/
theorem enterRising_of_settle_zero (hdemand : demand s = true) (hgood : s.powerGood = true) (hsettle : s.params.settle = 0) :
    enterRising s = deliverBoundary { s with rails := { Rails.reset with state := .on } } := by
  have hrising : demand (railsRising s) = true := (demand_congr rfl).trans hdemand
  rw [enterRising, if_pos ⟨hgood, hsettle⟩, enterOn_of_demand hrising]
  rfl

/-! ### The appearance of demand -/

theorem demandAppears_of_off (h : s.rails.state = .off) : demandAppears s = enterRising s := by
  rw [demandAppears, h]

theorem demandAppears_of_holding (h : s.rails.state = .holding) : demandAppears s = enterOn s := by
  rw [demandAppears, h]

/-- R94: demand that appears in RISING, ON, FALLING or FAULT leaves the rails alone. -/
theorem demandAppears_of_other
    (h : s.rails.state = .rising ∨ s.rails.state = .on ∨ s.rails.state = .falling ∨ s.rails.state = .fault) :
    demandAppears s = s := by
  unfold demandAppears
  obtain h | h | h | h := h <;> rw [h]

/-- R94: an evaluation that makes no demand appear is an evaluation of starts alone. -/
theorem evaluate_of_steady (h : demand s = true ∨ demand (evaluateStarts s) = false) : evaluate s = evaluateStarts s := by
  refine if_neg ?_
  rintro ⟨hidle, hdemand⟩
  obtain h | h := h
  · exact Bool.eq_false_iff.mp hidle h
  · exact Bool.eq_false_iff.mp h hdemand

theorem evaluate_of_appears (hidle : demand s = false) (hdemand : demand (evaluateStarts s) = true) :
    evaluate s = demandAppears (evaluateStarts s) := if_pos ⟨hidle, hdemand⟩

/-! ### Power-good and the timers -/

theorem powerGood_self {b : Bool} (h : s.powerGood = b) : { s with powerGood := b } = s := by
  rw [← h]

/-- R97: power-good rises in WAITING. -/
theorem exec_powerGoodAssert_of_waiting (hphase : s.phase = .running) (hlow : s.powerGood = false)
    (hrising : s.rails.state = .rising) (hwaiting : s.rails.risePhase = some .waiting) :
    exec .powerGoodAssert s = .next (beginSettling { s with powerGood := true }) := by
  show execPowerGoodAssert s = _
  rw [execPowerGoodAssert, if_neg (Bool.eq_false_iff.mp hlow), hphase, hrising, hwaiting]

/-- R95, R102, R104: power-good asserted out of RISING moves nothing but the input. -/
theorem exec_powerGoodAssert_of_not_rising (h : s.rails.state ≠ .rising) :
    exec .powerGoodAssert s = .next { s with powerGood := true } := by
  show execPowerGoodAssert s = _
  unfold execPowerGoodAssert
  split
  · rename_i hgood
    rw [powerGood_self hgood]
  · split
    · rename_i hrising _
      exact absurd hrising h
    · rfl

theorem exec_settleTimerExpiry (hrising : s.rails.state = .rising) (hsettling : s.rails.risePhase = some .settling) :
    exec .settleTimerExpiry s = .next (enterOn s) := by
  show execSettleTimerExpiry s = _
  rw [execSettleTimerExpiry, hrising, hsettling]

theorem exec_holdTimerExpiry (h : s.rails.state = .holding) : exec .holdTimerExpiry s = .next (enterFalling s) := by
  show execHoldTimerExpiry s = _
  rw [execHoldTimerExpiry, h]

theorem exec_fallTimerExpiry (h : s.rails.state = .falling) : exec .fallTimerExpiry s = .next (fallEnds s) := by
  show execFallTimerExpiry s = _
  rw [execFallTimerExpiry, h]

/-- R102: the fall ends without demand. -/
theorem fallEnds_of_idle (h : demand s = false) :
    fallEnds s = { s with rails := { s.rails with state := .off, fallTimer := none } } := if_neg (Bool.eq_false_iff.mp h)

/-- R102: the fall ends with demand present. -/
theorem fallEnds_of_demand (h : demand s = true) :
    fallEnds s = enterRising { s with rails := { s.rails with state := .off, fallTimer := none } } := if_pos h

end

/-! ### The obligations -/

/-- Settles O30: an evaluation is the evaluation of starts, which leaves the rails, power-good and the parameters, and then,
where demand has appeared, the entry that the rail state calls for. -/
theorem demandActsOnTheRails : Obligations.DemandActsOnTheRails := by
  unfold Obligations.DemandActsOnTheRails
  refine fun s => ⟨evaluate_of_steady, fun hidle hdemand => ?_⟩
  rw [evaluate_of_appears hidle hdemand, ← evaluateStarts_rails s, ← evaluateStarts_powerGood s, ← evaluateStarts_params s]
  generalize evaluateStarts s = t at hdemand
  refine ⟨fun hoff hlow => ?_, fun hoff hgood hsettle => ?_, fun hoff hgood hsettle => ?_, fun hholding => ?_,
    demandAppears_of_other⟩
  · rw [demandAppears_of_off hoff, enterRising_of_low hlow]
  · rw [demandAppears_of_off hoff, enterRising_of_settle hgood hsettle]
  · rw [demandAppears_of_off hoff, enterRising_of_settle_zero hdemand hgood hsettle]
  · rw [demandAppears_of_holding hholding, enterOn_of_demand hdemand, railsOn]

/-- Settles O41: each expiry is one entry into a rail state, taken by demand, the fast-fall request, HOLD_TIME, power-good and
SETTLE. -/
theorem railsRiseAndFall : Obligations.RailsRiseAndFall := by
  unfold Obligations.RailsRiseAndFall
  refine ⟨⟨fun s => exec_powerGoodAssert_of_waiting, fun s => exec_powerGoodAssert_of_not_rising,
      fun s hrising hsettling => ?_⟩,
    fun s => exec_holdTimerExpiry, fun s hfalling => ?_⟩
  · rw [exec_settleTimerExpiry hrising hsettling]
    refine ⟨fun hdemand => ?_, fun hidle hfall => ?_, fun hidle hslow hhold => ?_⟩
    · rw [enterOn_of_demand hdemand, railsOn]
    · rw [enterOn_of_idle hidle, demandEndsInOn_of_fall (s := railsOn s) hfall]
      rfl
    · rw [enterOn_of_idle hidle, demandEndsInOn_of_hold (s := railsOn s) hslow hhold, enterHolding, railsOn, hslow]
      rfl
  · rw [exec_fallTimerExpiry hfalling]
    refine ⟨fun hidle => ?_, fun hdemand hlow => ?_, fun hdemand hgood hsettle => ?_, fun hdemand hgood hsettle => ?_⟩
    · rw [fallEnds_of_idle hidle]
    all_goals rw [fallEnds_of_demand hdemand]
    · exact congrArg _ (enterRising_of_low hlow)
    · exact congrArg _ (enterRising_of_settle hgood hsettle)
    · exact congrArg _ (enterRising_of_settle_zero hdemand hgood hsettle)

end Sys2Proof.Machine
end

section
/-! The entry into FAULT and the events that lead to it, and Clear Fault (R52, R53, R56, R63, R77, R97, R101, R103, R106). -/

namespace Sys2Proof.Machine

/-! ### The notices of the aborts -/

/-- R52, R167: the fields of the Update Ended notice with which a slot ends. -/
def slotEndFields (result : EndResult) (x : Slot) : Option (Nat × EndResult × Nat × Nat) :=
  (slotUpdate x).map fun u => (u.id, result, framesDriven x, u.changed)

/-- R52, R77: the abort of a slot offers its Update Ended notice and, where its bank retires, a Bank Retired, and no other. -/
theorem abortSlot_endedFields (result : EndResult) (s : State) (i : Fin 8) : ∃ rest : List Notice,
    (abortSlot result s i).notices = rest.foldl offerTo s.notices ∧
      rest.filterMap endedFields = (slotEndFields result s.slots[i]).toList := by
  cases hu : slotUpdate s.slots[i] with
  | none =>
    refine ⟨[], ?_, by rw [slotEndFields, hu]; rfl⟩
    rw [abortSlot, hu]
    rfl
  | some u =>
    rw [abortSlot_of_active result hu, releaseBank_notices, offerNotice_notices, clearSlot_notices, slotEndFields, hu]
    split
    · exact ⟨[.updateEnded u.id result (framesDriven s.slots[i]) u.changed, .bankRetired u.bank], rfl, rfl⟩
    · exact ⟨[.updateEnded u.id result (framesDriven s.slots[i]) u.changed], rfl, rfl⟩

theorem foldl_abortSlot_endedFields (result : EndResult) {l : List (Fin 8)} (hl : l.Nodup) (s : State) :
    ∃ rest : List Notice, (l.foldl (abortSlot result) s).notices = rest.foldl offerTo s.notices ∧
      rest.filterMap endedFields = l.filterMap fun i => slotEndFields result s.slots[i] := by
  induction l generalizing s with
  | nil => exact ⟨[], rfl, rfl⟩
  | cons i l ih =>
    obtain ⟨hi, hl⟩ := List.nodup_cons.mp hl
    obtain ⟨first, hfirst, hfields⟩ := abortSlot_endedFields result s i
    obtain ⟨rest, hrest, hfields'⟩ := ih hl (abortSlot result s i)
    have hothers : (l.filterMap fun j => slotEndFields result (abortSlot result s i).slots[j]) =
        l.filterMap fun j => slotEndFields result s.slots[j] :=
      List.filterMap_congr fun j hj => by
        rw [(abortSlot_actsOnSlot result).other s i j fun e => hi (e ▸ hj)]
    refine ⟨first ++ rest, by rw [List.foldl_cons, hrest, hfirst, List.foldl_append], ?_⟩
    rw [List.filterMap_append, hfields, hfields', hothers, List.filterMap_cons]
    cases slotEndFields result s.slots[i] <;> rfl

/-- R39: the slots in slot-number order. -/
theorem slots_toList (s : State) : s.slots.toList = slotNumbers.map fun i => s.slots[i] :=
  List.ext_getElem (by simp [slotNumbers]) fun n hn _ => by
    have hlast : n < 8 := by simpa using hn
    interval_cases n <;> rfl

/-- R52: the Update Ended notices of the aborts of every active slot, one for each, in slot-number order. -/
theorem abortAll_endedFields (result : EndResult) (s : State) : ∃ rest : List Notice,
    (abortAll result s).notices = rest.foldl offerTo s.notices ∧
      rest.filterMap endedFields = s.slots.toList.filterMap (slotEndFields result) := by
  rw [slots_toList, List.filterMap_map]
  exact foldl_abortSlot_endedFields result slotNumbers_nodup s

/-! ### The entry into FAULT -/

/-- R56: of all the state the end of a halt changes the halt state and the Control Line alone. -/
theorem haltedIfIdle_eq (s : State) :
    haltedIfIdle s = { s with halt := (haltedIfIdle s).halt, link := (haltedIfIdle s).link } := by
  obtain ⟨-, -, e⟩ | ⟨-, e⟩ := haltedIfIdle_cases s
  · rw [e]
    rfl
  · rw [e]

theorem haltedIfIdle_rails (s : State) : (haltedIfIdle s).rails = s.rails := by rw [haltedIfIdle_eq]
theorem haltedIfIdle_frameTimer (s : State) : (haltedIfIdle s).frameTimer = s.frameTimer := by rw [haltedIfIdle_eq]
theorem haltedIfIdle_queue (s : State) : (haltedIfIdle s).queue = s.queue := by rw [haltedIfIdle_eq]
theorem haltedIfIdle_notices (s : State) : (haltedIfIdle s).notices = s.notices := by rw [haltedIfIdle_eq]
theorem bankAt_haltedIfIdle (s : State) (bank : BankId) : bankAt (haltedIfIdle s) bank = bankAt s bank := by
  rw [haltedIfIdle_eq]
  cases bank <;> rfl

theorem haltedIfIdle_of_not_halting {s : State} (h : s.halt ≠ .halting) : haltedIfIdle s = s := if_neg fun hh => h hh.1

/-- R103: the entry into FAULT before its aborts: the rails down, the Frame Timer stopped, Rail Fault offered. -/
def faultTaken (cause : FaultCause) (s : State) : State :=
  { s with
    rails := { Rails.reset with state := .fault, faultCause := some cause }
    frameTimer := .stopped
    notices := offerTo s.notices (.railFault cause s.rails.state) }

theorem enterFault_eq (cause : FaultCause) (s : State) :
    enterFault cause s = haltedIfIdle (abortAll .railFault (faultTaken cause s)) := rfl

section
variable (cause : FaultCause) (s : State)

theorem enterFault_rails : (enterFault cause s).rails = { Rails.reset with state := .fault, faultCause := some cause } := by
  rw [enterFault_eq, haltedIfIdle_rails, driveFrame_rails (abortAll_driveFrame _ _), faultTaken]

theorem enterFault_frameTimer : (enterFault cause s).frameTimer = .stopped := by
  rw [enterFault_eq, haltedIfIdle_frameTimer, driveFrame_frameTimer (abortAll_driveFrame _ _), faultTaken]

theorem enterFault_queue : (enterFault cause s).queue = s.queue := by
  rw [enterFault_eq, haltedIfIdle_queue, abortAll_queue, faultTaken]

/-- R52, R103: Rail Fault is offered first, and then the notices of the aborts. -/
theorem enterFault_endedFields : ∃ rest : List Notice,
    (enterFault cause s).notices = rest.foldl offerTo (offerTo s.notices (.railFault cause s.rails.state)) ∧
      rest.filterMap endedFields = s.slots.toList.filterMap (slotEndFields .railFault) := by
  rw [enterFault_eq, haltedIfIdle_notices]
  exact abortAll_endedFields .railFault (faultTaken cause s)

/-- R52, R53, R63, R77, R103: the aborts of the entry into FAULT. -/
theorem enterFault_slotsAborted :
    SlotsAborted .railFault (offerTo s.notices (.railFault cause s.rails.state)) s (enterFault cause s) := by
  have haborted : SlotsAborted .railFault (offerTo s.notices (.railFault cause s.rails.state)) s
      (abortAll .railFault (faultTaken cause s)) := abortAll_slotsAborted .railFault (faultTaken cause s)
  exact haborted.congr (driveView_haltedIfIdle _) (haltedIfIdle_notices _) (bankAt_haltedIfIdle _)

variable {s}

/-- R56, R103: in HALTING the aborts end the halt. -/
theorem enterFault_of_halting (h : s.halt = .halting) :
    (enterFault cause s).halt = .halted ∧ (enterFault cause s).link = (finishWork .halt .ok [] s).link := by
  have hframe := abortAll_driveFrame .railFault (faultTaken cause s)
  have hlink : (abortAll .railFault (faultTaken cause s)).link = s.link := (driveFrame_link hframe).trans rfl
  have hends := haltedIfIdle_ends ((driveFrame_halt hframe).trans h) (demand_abortAll .railFault (faultTaken cause s))
  exact ⟨hends.halt, hends.link.trans (finishWork_link_congr _ _ _ hlink)⟩

/-- R103: out of HALTING an entry into FAULT leaves the halt state and the Control Line. -/
theorem enterFault_of_not_halting (h : s.halt ≠ .halting) :
    (enterFault cause s).halt = s.halt ∧ (enterFault cause s).link = s.link := by
  have hframe := abortAll_driveFrame .railFault (faultTaken cause s)
  have hhalt : (abortAll .railFault (faultTaken cause s)).halt = s.halt := (driveFrame_halt hframe).trans rfl
  rw [enterFault_eq, haltedIfIdle_of_not_halting (hhalt.trans_ne h)]
  exact ⟨hhalt, (driveFrame_link hframe).trans rfl⟩

end

/-! ### The events that lead to FAULT -/

section
variable {s : State} {ms : Nat}

/-- R97: the rise timer ends in SETTLING. -/
theorem exec_riseTimerExpiry_of_settling (hrising : s.rails.state = .rising) (hsettling : s.rails.risePhase = some .settling)
    (htimer : s.rails.riseTimer = .running ms) :
    exec .riseTimerExpiry s = .next { s with rails := { s.rails with riseTimer := .expired } } := by
  show execRiseTimerExpiry s = _
  rw [execRiseTimerExpiry, hrising, htimer]
  exact if_pos hsettling

/-- R97, R101: the rise timer ends in WAITING. -/
theorem exec_riseTimerExpiry_of_waiting (hrising : s.rails.state = .rising) (hwaiting : s.rails.risePhase = some .waiting)
    (htimer : s.rails.riseTimer = .running ms) : exec .riseTimerExpiry s = .next (enterFault .railTimeout s) := by
  have hnot : s.rails.risePhase ≠ some .settling := by rw [hwaiting]; decide
  show execRiseTimerExpiry s = _
  rw [execRiseTimerExpiry, hrising, htimer]
  exact if_neg hnot

/-- R97, R101: power-good falls in normal running. -/
theorem exec_powerGoodLoss (hphase : s.phase = .running) (hgood : s.powerGood = true) :
    exec .powerGoodLoss s = .next (losePower { s with powerGood := false }) := by
  show execPowerGoodLoss s = _
  rw [execPowerGoodLoss, if_pos hgood, if_pos hphase]

theorem losePower_of_settling (hrising : s.rails.state = .rising) (hsettling : s.rails.risePhase = some .settling) :
    losePower s = loseSettling s := by
  rw [losePower, hrising]
  exact if_pos hsettling

/-- R97: power-good lost in SETTLING within the rise limit. -/
theorem loseSettling_of_running (h : s.rails.riseTimer = .running ms) :
    loseSettling s = { s with rails := { s.rails with risePhase := some .waiting, settleTimer := none } } :=
  if_neg (by rw [h]; simp)

/-- R97, R101: power-good lost in SETTLING past the rise limit. -/
theorem loseSettling_of_expired (h : s.rails.riseTimer = .expired) : loseSettling s = enterFault .railTimeout s := if_pos h

/-- R101: power-good lost in ON or HOLDING. -/
theorem losePower_of_driven (h : s.rails.state = .on ∨ s.rails.state = .holding) :
    losePower s = enterFault .powerLost s := by
  unfold losePower
  obtain h | h := h <;> rw [h]

theorem losePower_of_idle (h : s.rails.state = .off ∨ s.rails.state = .falling ∨ s.rails.state = .fault) :
    losePower s = s := by
  unfold losePower
  obtain h | h | h := h <;> rw [h]

/-- R101: power-good lost in OFF, FALLING or FAULT moves nothing but the input, whatever the phase and the level before. -/
theorem exec_powerGoodLoss_of_idle (h : s.rails.state = .off ∨ s.rails.state = .falling ∨ s.rails.state = .fault) :
    exec .powerGoodLoss s = .next { s with powerGood := false } := by
  show execPowerGoodLoss s = _
  unfold execPowerGoodLoss
  split
  · rw [losePower_of_idle (s := { s with powerGood := false }) h, ite_self]
  · rename_i hlow
    rw [powerGood_self (Bool.not_eq_true _ ▸ hlow)]

end

/-! ### Clear Fault -/

theorem exec_clearFault {s : State} {r : Request} (h : takes s .clearFault r) :
    exec .clearFault s = .next (clearFault r s) :=
  congrArg Host.Outcome.next (dispatch_of_takes clearFault h)

/-- R106: a Clear Fault by its payload and the rail state. -/
theorem clearFault_eq (r : Request) (s : State) : clearFault r s =
    if r.payload ≠ [] then answerEntry r .badLength [] .nothing s
    else if s.rails.state = .fault then
      evaluate (answerEntry r .ok [] .nothing { s with rails := { s.rails with state := .off, faultCause := none } })
    else answerEntry r .ok [] .nothing s := by
  unfold clearFault
  by_cases hp : r.payload = []
  · rw [hp]
    rfl
  · rw [noFields_of_ne_nil hp, if_pos hp]

/-! ### The obligation -/

/-- Settles O42: each rail event by the rail state, the rise phase and the rise timer; the entry into FAULT as the aborts of all
slots after Rail Fault, and then the end of the halt; Clear Fault by its payload and the rail state. -/
theorem railFaultsAbortTheDrive : Obligations.RailFaultsAbortTheDrive := by
  unfold Obligations.RailFaultsAbortTheDrive
  refine ⟨⟨fun s ms => exec_riseTimerExpiry_of_settling, fun s ms => exec_riseTimerExpiry_of_waiting,
      fun s ms hphase hgood hrising hsettling htimer => ?_, fun s hphase hgood hrising hsettling hexpired => ?_,
      fun s hphase hgood hdriven => ?_, fun s => exec_powerGoodLoss_of_idle, fun s cause => ?_⟩,
    fun s r htakes => ?_⟩
  · rw [exec_powerGoodLoss hphase hgood, losePower_of_settling (s := { s with powerGood := false }) hrising hsettling,
      loseSettling_of_running (s := { s with powerGood := false }) htimer]
  · rw [exec_powerGoodLoss hphase hgood, losePower_of_settling (s := { s with powerGood := false }) hrising hsettling,
      loseSettling_of_expired (s := { s with powerGood := false }) hexpired]
  · rw [exec_powerGoodLoss hphase hgood, losePower_of_driven (s := { s with powerGood := false }) hdriven]
  · obtain ⟨rest, hnotices, hfields⟩ := enterFault_endedFields cause s
    have haborted := enterFault_slotsAborted cause s
    exact ⟨rest, enterFault_rails cause s, enterFault_frameTimer cause s, haborted.1, hnotices, hfields,
      enterFault_queue cause s, fun h => (enterFault_of_halting cause h).1, fun h => (enterFault_of_halting cause h).2,
      enterFault_of_not_halting cause, haborted⟩
  · rw [exec_clearFault htakes, clearFault_eq]
    refine ⟨fun hp => by rw [if_pos hp], fun hp => ?_⟩
    rw [if_neg (not_not.mpr hp)]
    exact ⟨fun hfault => by rw [if_pos hfault], fun hclear => by rw [if_neg hclear]⟩

end Sys2Proof.Machine
end

section
/-! The cursor of a load session (R114): where each scan order stands after a count of pixels, and that it stands at every pixel of
the window once. -/

namespace Sys2Proof.Machine

/-! ### The steps along the window -/

/-- R114: how far across and how far down the cursor has come, before the order's direction is applied. -/
def cursorSteps (r : Rect) (order : Fin 8) (k : Nat) : Nat × Nat :=
  if orderColumnMajor order then (k / r.height, k % r.height) else (k % r.width, k / r.width)

/-- R114: a count of steps along a side of length `n`, taken from the far end when `flip` is set. -/
def towards (flip : Bool) (n i : Nat) : Nat := if flip then n - 1 - i else i

theorem cursorPixel_eq (r : Rect) (order : Fin 8) (k : Nat) : cursorPixel r order k =
    (r.col + towards (orderRightToLeft order) r.width (cursorSteps r order k).1,
      r.row + towards (orderBottomToTop order) r.height (cursorSteps r order k).2) := by
  unfold cursorPixel cursorSteps
  cases orderColumnMajor order <;> rfl

section
variable {flip : Bool} {n i j : Nat}

theorem towards_lt (h : i < n) : towards flip n i < n := by
  cases flip with
  | false => exact h
  | true => exact show n - 1 - i < n by omega

theorem towards_towards (h : i < n) : towards flip n (towards flip n i) = i := by
  cases flip with
  | false => rfl
  | true => exact show n - 1 - (n - 1 - i) = i by omega

theorem towards_inj (hi : i < n) (hj : j < n) (h : towards flip n i = towards flip n j) : i = j := by
  rw [← towards_towards (flip := flip) hi, h, towards_towards hj]

/-- R114: the coordinate, for a side that begins at `c`. -/
theorem add_towards (c : Nat) (h : i < n) : c + towards flip n i = if flip then c + n - 1 - i else c + i := by
  cases flip with
  | false => rfl
  | true => exact show c + (n - 1 - i) = c + n - 1 - i by omega

end

theorem div_mod_of_line {n along : Nat} (line : Nat) (h : along < n) :
    (line * n + along) / n = line ∧ (line * n + along) % n = along :=
  (Nat.div_mod_unique (Nat.zero_lt_of_lt h)).mpr ⟨by rw [Nat.mul_comm, Nat.add_comm], h⟩

theorem line_lt_mul {n m along line : Nat} (halong : along < n) (hline : line < m) : line * n + along < m * n :=
  calc line * n + along < (line + 1) * n := by rw [Nat.succ_mul]; exact Nat.add_lt_add_left halong _
    _ ≤ m * n := Nat.mul_le_mul_right n hline

section
variable {r : Rect} {order : Fin 8} {j k across down along line : Nat}

theorem cursorSteps_of_columnMajor (h : orderColumnMajor order = true) : cursorSteps r order k = (k / r.height, k % r.height) :=
  if_pos h

theorem cursorSteps_of_rowMajor (h : orderColumnMajor order = false) : cursorSteps r order k = (k % r.width, k / r.width) :=
  if_neg (Bool.eq_false_iff.mp h)

/-- R114: in a row-major order the lines are rows. -/
theorem cursorSteps_row (horder : orderColumnMajor order = false) (h : along < r.width) :
    cursorSteps r order (line * r.width + along) = (along, line) := by
  obtain ⟨hline, halong⟩ := div_mod_of_line line h
  rw [cursorSteps_of_rowMajor horder, hline, halong]

/-- R114: in a column-major order the lines are columns. -/
theorem cursorSteps_column (horder : orderColumnMajor order = true) (h : along < r.height) :
    cursorSteps r order (line * r.height + along) = (line, along) := by
  obtain ⟨hline, halong⟩ := div_mod_of_line line h
  rw [cursorSteps_of_columnMajor horder, hline, halong]

/-- R114: while the window is not full the steps stay within its sides. -/
theorem cursorSteps_lt (hk : k < rectArea r) : (cursorSteps r order k).1 < r.width ∧ (cursorSteps r order k).2 < r.height := by
  have harea : 0 < r.width * r.height := Nat.zero_lt_of_lt hk
  cases horder : orderColumnMajor order with
  | true =>
    rw [cursorSteps_of_columnMajor horder]
    exact ⟨Nat.div_lt_of_lt_mul (Nat.mul_comm r.width _ ▸ hk), Nat.mod_lt _ (Nat.pos_of_mul_pos_left harea)⟩
  | false =>
    rw [cursorSteps_of_rowMajor horder]
    exact ⟨Nat.mod_lt _ (Nat.pos_of_mul_pos_right harea), Nat.div_lt_of_lt_mul hk⟩

theorem cursorSteps_inj (h : cursorSteps r order j = cursorSteps r order k) : j = k := by
  cases horder : orderColumnMajor order with
  | true =>
    rw [cursorSteps_of_columnMajor horder, cursorSteps_of_columnMajor horder] at h
    obtain ⟨hline, halong⟩ := Prod.mk.inj h
    rw [← Nat.div_add_mod j r.height, hline, halong, Nat.div_add_mod]
  | false =>
    rw [cursorSteps_of_rowMajor horder, cursorSteps_of_rowMajor horder] at h
    obtain ⟨halong, hline⟩ := Prod.mk.inj h
    rw [← Nat.div_add_mod j r.width, hline, halong, Nat.div_add_mod]

/-- R114: every place within the sides is reached. -/
theorem cursorSteps_surj (order : Fin 8) (hacross : across < r.width) (hdown : down < r.height) :
    ∃ k, k < rectArea r ∧ cursorSteps r order k = (across, down) := by
  cases horder : orderColumnMajor order with
  | true => exact ⟨across * r.height + down, line_lt_mul hdown hacross, cursorSteps_column horder hdown⟩
  | false =>
    exact ⟨down * r.width + across, (line_lt_mul hacross hdown).trans_eq (Nat.mul_comm _ _), cursorSteps_row horder hacross⟩

/-! ### The cursor -/

/-- R114: orders 0 to 3. -/
theorem cursorPixel_row (horder : orderColumnMajor order = false) (halong : along < r.width) (hline : line < r.height) :
    cursorPixel r order (line * r.width + along) =
      (if orderRightToLeft order then r.col + r.width - 1 - along else r.col + along,
        if orderBottomToTop order then r.row + r.height - 1 - line else r.row + line) := by
  rw [cursorPixel_eq, cursorSteps_row horder halong, add_towards _ halong, add_towards _ hline]

/-- R114: orders 4 to 7. -/
theorem cursorPixel_column (horder : orderColumnMajor order = true) (halong : along < r.height) (hline : line < r.width) :
    cursorPixel r order (line * r.height + along) =
      (if orderRightToLeft order then r.col + r.width - 1 - line else r.col + line,
        if orderBottomToTop order then r.row + r.height - 1 - along else r.row + along) := by
  rw [cursorPixel_eq, cursorSteps_column horder halong, add_towards _ hline, add_towards _ halong]

/-- R113, R114: the cursor of a window that is not full stands in it. -/
theorem cursorPixel_in_window (hk : k < rectArea r) :
    rectContains r (cursorPixel r order k).1 (cursorPixel r order k).2 = true := by
  obtain ⟨hacross, hdown⟩ := cursorSteps_lt (order := order) hk
  have hx := towards_lt (flip := orderRightToLeft order) hacross
  have hy := towards_lt (flip := orderBottomToTop order) hdown
  simp only [cursorPixel_eq, rectContains, Bool.and_eq_true, decide_eq_true_eq]
  omega

theorem cursorPixel_inj (hj : j < rectArea r) (hk : k < rectArea r) (h : cursorPixel r order j = cursorPixel r order k) :
    j = k := by
  obtain ⟨hacrossj, hdownj⟩ := cursorSteps_lt (order := order) hj
  obtain ⟨hacrossk, hdownk⟩ := cursorSteps_lt (order := order) hk
  rw [cursorPixel_eq, cursorPixel_eq] at h
  obtain ⟨hx, hy⟩ := Prod.mk.inj h
  exact cursorSteps_inj (Prod.ext (towards_inj hacrossj hacrossk (Nat.add_left_cancel hx))
    (towards_inj hdownj hdownk (Nat.add_left_cancel hy)))

theorem cursorPixel_surj (order : Fin 8) {x y : Nat} (h : rectContains r x y = true) :
    ∃ k, k < rectArea r ∧ cursorPixel r order k = (x, y) := by
  simp only [rectContains, Bool.and_eq_true, decide_eq_true_eq] at h
  have hacross : x - r.col < r.width := by omega
  have hdown : y - r.row < r.height := by omega
  obtain ⟨k, hk, hsteps⟩ := cursorSteps_surj order (towards_lt (flip := orderRightToLeft order) hacross)
    (towards_lt (flip := orderBottomToTop order) hdown)
  refine ⟨k, hk, ?_⟩
  rw [cursorPixel_eq, hsteps, towards_towards hacross, towards_towards hdown]
  exact Prod.ext (by omega) (by omega)

end

/-- Settles O45: each order by its lines; the cursor visits each pixel once because its steps do and a direction only reflects
them. -/
theorem cursorVisitsEveryPixelOnce : Obligations.CursorVisitsEveryPixelOnce := by
  refine ⟨fun window along line => ⟨fun ha hl => ?_, fun ha hl => ?_⟩, fun window order => ⟨fun k => cursorPixel_in_window,
    fun j k => cursorPixel_inj, fun x y => cursorPixel_surj order⟩⟩
  · exact ⟨cursorPixel_row rfl ha hl, cursorPixel_row rfl ha hl, cursorPixel_row rfl ha hl, cursorPixel_row rfl ha hl⟩
  · exact ⟨cursorPixel_column rfl ha hl, cursorPixel_column rfl ha hl, cursorPixel_column rfl ha hl,
      cursorPixel_column rfl ha hl⟩

end Sys2Proof.Machine
end

section
/-! Load Open and Load Close (R115, R117, R118, R121, R122): the fields, and what each does with and without an OPEN session. -/

namespace Sys2Proof.Machine

/-! ### The fields of a Load Open (R115) -/

theorem orderOf_eq_none {b : Byte} (h : 7 < b.toNat) : orderOf b = none := dif_neg (Nat.not_lt.mpr h)

theorem regionOf_eq_none {rect : Rect} (h : rectValid rect = false) : regionOf rect = none := dif_neg (Bool.eq_false_iff.mp h)

section
variable {rect : Rect} {b : Byte}

theorem loadOpenFields_of_length {p : List Byte} (h : p.length ≠ 9) : loadOpenFields p = .error .badLength := if_pos h

theorem loadOpenPayload_byte (rect : Rect) (b : Byte) :
    (rectBytes rect ++ [b]).length = 9 ∧ byteField (rectBytes rect ++ [b]) 8 = b :=
  ⟨by simp, byteField_append (rectBytes rect) [] b⟩

theorem loadOpenFields_of_badOrder (rect : Rect) (h : 7 < b.toNat) :
    loadOpenFields (rectBytes rect ++ [b]) = .error .badField := by
  obtain ⟨hlength, hbyte⟩ := loadOpenPayload_byte rect b
  simp only [loadOpenFields, hlength, ne_eq, not_true, if_false, hbyte, orderOf_eq_none h]

theorem loadOpenFields_of_badRect (order : Fin 8) (hcol : rect.col < 65536) (hrow : rect.row < 65536)
    (hwidth : rect.width < 65536) (hheight : rect.height < 65536) (h : rectValid rect = false) :
    loadOpenFields (rectBytes rect ++ [byteOf order.val]) = .error .badRect := by
  obtain ⟨hlength, hbyte⟩ := loadOpenPayload_byte rect (byteOf order.val)
  have hrect : rectField (rectBytes rect ++ [byteOf order.val]) 0 = rect :=
    rectField_append [] [byteOf order.val] rect hcol hrow hwidth hheight
  simp only [loadOpenFields, hlength, ne_eq, not_true, if_false, hbyte, orderOf_byteOf, hrect, regionOf_eq_none h]

theorem loadOpenFields_of_window (window : Region) (order : Fin 8) :
    loadOpenFields (rectBytes window.val ++ [byteOf order.val]) = .ok (window, order) := by
  obtain ⟨hlength, hbyte⟩ := loadOpenPayload_byte window.val (byteOf order.val)
  have hrect : rectField (rectBytes window.val ++ [byteOf order.val]) 0 = window.val :=
    rectField_region [] [byteOf order.val] window
  simp only [loadOpenFields, hlength, ne_eq, not_true, if_false, hbyte, orderOf_byteOf, hrect, regionOf_val]

end

section
variable {s : State} {r : Request}

/-! ### Load Open -/

theorem exec_loadOpen (h : takes s .loadOpen r) : exec .loadOpen s = .next (takeLoadOpen r s) :=
  congrArg Host.Outcome.next (dispatch_of_takes takeLoadOpen h)

theorem takeLoadOpen_of_error {st : Status} (h : loadOpenFields r.payload = .error st) :
    takeLoadOpen r s = answerEntry r st [] .nothing s := by
  rw [takeLoadOpen, h]

section
variable {window : Region} {order : Fin 8} (h : r.payload = rectBytes window.val ++ [byteOf order.val])
include h

/-- R117. -/
theorem takeLoadOpen_of_closed (hload : s.load = none) : takeLoadOpen r s =
    answerEntry r .ok [0, 0, 0, 0, 0, 0, 0, 0, 0] .nothing
      { s with load := some { window := window, order := order, written := 0, discarded := 0 } } := by
  rw [takeLoadOpen, h, loadOpenFields_of_window]
  simp only [hload]
  rfl

/-- R118. -/
theorem takeLoadOpen_of_open {old : LoadSession} (hload : s.load = some old) : takeLoadOpen r s = evaluate
    (answerEntry r .ok (1 :: (leBytes 4 old.written ++ leBytes 4 old.discarded)) .nothing { s with
      queue := s.queue.map fun x => { x with loadFence := false }
      load := some { window := window, order := order, written := 0, discarded := 0 } }) := by
  rw [takeLoadOpen, h, loadOpenFields_of_window]
  simp only [hload]
  rfl

end

/-! ### Load Close -/

theorem exec_loadClose (h : takes s .loadClose r) : exec .loadClose s = .next (takeLoadClose r s) :=
  congrArg Host.Outcome.next (dispatch_of_takes takeLoadClose h)

theorem takeLoadClose_of_fields (h : r.payload ≠ []) : takeLoadClose r s = answerEntry r .badLength [] .nothing s := by
  rw [takeLoadClose, noFields_of_ne_nil h]

theorem takeLoadClose_of_closed (h : r.payload = []) (hload : s.load = none) :
    takeLoadClose r s = answerEntry r .noLoad [] .nothing s := by
  rw [takeLoadClose, h, hload]
  rfl

/-- R121, R122. -/
theorem takeLoadClose_of_open {l : LoadSession} (h : r.payload = []) (hload : s.load = some l) : takeLoadClose r s = evaluate
    (answerEntry r .ok (leBytes 4 l.written ++ leBytes 4 (rectArea l.window.val - l.written) ++ leBytes 4 l.discarded)
      .nothing { s with load := none, queue := s.queue.map fun x => { x with loadFence := false } }) := by
  rw [takeLoadClose, h, hload]
  rfl

end

/-- Settles O43: Load Open and Load Close by their payload and the session they find. -/
theorem loadSessionsOpenAndClose : Obligations.LoadSessionsOpenAndClose := by
  refine ⟨fun s r rect order htakes hp hcol hrow hwidth hheight => ?_, fun s r => ⟨fun htakes hp => ?_,
    fun rect b htakes hp hb => ?_, fun htakes hp => ?_⟩, fun s r htakes hp => ?_⟩
  · rw [exec_loadOpen htakes]
    refine ⟨fun hbad => ?_, fun window hwindow => ?_⟩
    · rw [takeLoadOpen_of_error (by rw [hp, loadOpenFields_of_badRect order hcol hrow hwidth hheight hbad])]
    · subst hwindow
      exact ⟨fun hload => by rw [takeLoadOpen_of_closed hp hload], fun old hload => by rw [takeLoadOpen_of_open hp hload]⟩
  · rw [exec_loadOpen htakes, takeLoadOpen_of_error (loadOpenFields_of_length hp)]
  · rw [exec_loadOpen htakes, takeLoadOpen_of_error (by rw [hp, loadOpenFields_of_badOrder rect hb])]
  · rw [exec_loadClose htakes, takeLoadClose_of_fields hp]
  · rw [exec_loadClose htakes]
    exact ⟨fun hload => by rw [takeLoadClose_of_closed hp hload], fun l hload => by rw [takeLoadClose_of_open hp hload]⟩

end Sys2Proof.Machine
end

section
/-! Load Data (R113, R119, R120): its fields, the session after a count of pixels, and the pixels of Pending. -/

namespace Sys2Proof.Machine

/-! ### The fields (R119) -/

section
variable {count : Nat} {data : List Byte}

theorem loadDataFields_of_short {p : List Byte} (h : p.length < 2) : loadDataFields p = .error .badLength := if_pos (.inl h)

/-- R119: the checks on the count a payload carries. -/
theorem loadDataFields_of_count (hcount : count < 65536) : loadDataFields (leBytes 2 count ++ data) =
    if data.length ≠ (count + 1) / 2 then .error .badLength
    else if count < 1 ∨ 2032 < count then .error .badField
    else .ok ((data.flatMap unpackByte).take count) := by
  have hfield : fieldNat (leBytes 2 count ++ data) 0 2 = count := fieldNat_append [] data 2 count hcount
  have hlength : (leBytes 2 count ++ data).length = 2 + data.length := by rw [List.length_append, leBytes_length]
  unfold loadDataFields
  rw [hfield, hlength, List.drop_left' (leBytes_length 2 count)]
  exact if_congr (by omega) rfl rfl

theorem loadDataFields_of_length (hcount : count < 65536) (h : data.length ≠ (count + 1) / 2) :
    loadDataFields (leBytes 2 count ++ data) = .error .badLength := by
  rw [loadDataFields_of_count hcount, if_pos h]

theorem loadDataFields_of_range (hcount : count < 65536) (h : data.length = (count + 1) / 2) (hrange : count = 0 ∨ 2032 < count) :
    loadDataFields (leBytes 2 count ++ data) = .error .badField := by
  rw [loadDataFields_of_count hcount, if_neg (not_not.mpr h), if_pos (by omega)]

theorem loadDataFields_of_levels (hlow : 1 ≤ count) (hhigh : count ≤ 2032) (h : data.length = (count + 1) / 2) :
    loadDataFields (leBytes 2 count ++ data) = .ok ((data.flatMap unpackByte).take count) := by
  rw [loadDataFields_of_count (by omega), if_neg (not_not.mpr h), if_neg (by omega)]

end

/-! ### The session after a count of pixels (R113, R120) -/

/-- R113: the counts of a session lie within their ranges. -/
def sessionSound (l : LoadSession) : Prop := l.written ≤ rectArea l.window.val ∧ l.discarded ≤ Config.counter32Max

theorem loadLaw_iff (s : State) : LoadLaw s ↔ ∀ l, s.load = some l → sessionSound l := Iff.rfl

/-- R120: how many of `n` further pixels the window takes. -/
def placedOf (n : Nat) (l : LoadSession) : Nat := min n (rectArea l.window.val - l.written)

/-- R120: the session after `n` further pixels. -/
def afterPixels (n : Nat) (l : LoadSession) : LoadSession :=
  { l with written := l.written + placedOf n l, discarded := min Config.counter32Max (l.discarded + (n - placedOf n l)) }

section
variable {l : LoadSession}

theorem sessionSound_afterPixels (n : Nat) (h : sessionSound l) : sessionSound (afterPixels n l) := by
  obtain ⟨hwritten, -⟩ := h
  refine ⟨?_, Nat.min_le_left _ _⟩
  simp only [afterPixels, placedOf]
  omega

theorem afterPixels_zero (h : sessionSound l) : afterPixels 0 l = l := by
  obtain ⟨-, hdiscarded⟩ := h
  simp only [afterPixels, placedOf, Nat.zero_min, Nat.add_zero, Nat.sub_zero, Nat.min_eq_right hdiscarded]

theorem placedOf_add (n m : Nat) (l : LoadSession) : placedOf (n + m) l = placedOf n l + placedOf m (afterPixels n l) := by
  simp only [placedOf, afterPixels, Nat.sub_add_eq]
  generalize rectArea l.window.val - l.written = room
  omega

theorem afterPixels_afterPixels (n m : Nat) (l : LoadSession) : afterPixels m (afterPixels n l) = afterPixels (n + m) l := by
  have hn : placedOf n l ≤ n := Nat.min_le_left _ _
  have hm : placedOf m (afterPixels n l) ≤ m := Nat.min_le_left _ _
  have hwritten : l.written + placedOf n l + placedOf m (afterPixels n l) = l.written + placedOf (n + m) l := by
    rw [placedOf_add, Nat.add_assoc]
  have hdiscarded : min Config.counter32Max (min Config.counter32Max (l.discarded + (n - placedOf n l)) +
      (m - placedOf m (afterPixels n l))) = min Config.counter32Max (l.discarded + (n + m - placedOf (n + m) l)) := by
    rw [placedOf_add]
    omega
  exact congrArg₂ (LoadSession.mk l.window l.order) hwritten hdiscarded

theorem placedOf_of_full {n : Nat} (hfull : rectArea l.window.val ≤ l.written) : placedOf n l = 0 := by
  rw [placedOf, Nat.sub_eq_zero_of_le hfull, Nat.min_zero]

theorem afterPixels_one_of_room (h : sessionSound l) (hroom : l.written < rectArea l.window.val) :
    afterPixels 1 l = { l with written := l.written + 1 } := by
  obtain ⟨-, hdiscarded⟩ := h
  have hone : placedOf 1 l = 1 := Nat.min_eq_left (by omega)
  rw [afterPixels, hone, Nat.sub_self, Nat.add_zero l.discarded, Nat.min_eq_right hdiscarded]

theorem windowFull_iff (l : LoadSession) : windowFull l = true ↔ rectArea l.window.val ≤ l.written := decide_eq_true_iff

/-- R120: one pixel in a window that is not full. -/
theorem placePixel_of_room (h : sessionSound l) (hroom : l.written < rectArea l.window.val) (level : Level) (p : Plane Level) :
    placePixel (l, p) level = (afterPixels 1 l,
      planeSet (cursorPixel l.window.val l.order l.written).1 (cursorPixel l.window.val l.order l.written).2 level p) := by
  rw [afterPixels_one_of_room h hroom]
  exact if_neg fun hfull => absurd ((windowFull_iff l).mp hfull) (Nat.not_le.mpr hroom)

/-- R120: one pixel with the window full. -/
theorem placePixel_of_full (hfull : rectArea l.window.val ≤ l.written) (level : Level) (p : Plane Level) :
    placePixel (l, p) level = (afterPixels 1 l, p) := by
  rw [placePixel, if_pos ((windowFull_iff l).mpr hfull), afterPixels, placedOf_of_full hfull]
  rfl

/-- R120: the counts after the pixels of a Load Data. -/
theorem placePixels_session (levels : List Level) (h : sessionSound l) (p : Plane Level) :
    (placePixels levels l p).1 = afterPixels levels.length l := by
  unfold placePixels
  induction levels generalizing l p with
  | nil => exact (afterPixels_zero h).symm
  | cons level levels ih =>
    have hnext := sessionSound_afterPixels 1 h
    rw [List.foldl_cons, List.length_cons, Nat.add_comm, ← afterPixels_afterPixels]
    by_cases hroom : l.written < rectArea l.window.val
    · rw [placePixel_of_room h hroom, ih hnext]
    · rw [placePixel_of_full (Nat.not_lt.mp hroom), ih hnext]

end

/-! ### The pixels of Pending (R120) -/

/-- R120: a plane in which the successive cursor positions hold the levels, as far as the window reaches, and every other pixel is
as it was. -/
structure LevelsPlaced (levels : List Level) (l : LoadSession) (p q : Plane Level) : Prop where
  form : planeWf 800 600 q = true
  placed : ∀ k, k < placedOf levels.length l → planeAt q (cursorPixel l.window.val l.order (l.written + k)).1
    (cursorPixel l.window.val l.order (l.written + k)).2 = levels[k]?
  others : ∀ x y, (∀ k, k < placedOf levels.length l → cursorPixel l.window.val l.order (l.written + k) ≠ (x, y)) →
    planeAt q x y = planeAt p x y

section
variable {l : LoadSession} {p q : Plane Level} {levels : List Level}

theorem LevelsPlaced.nil (l : LoadSession) (hform : planeWf 800 600 p = true) : LevelsPlaced [] l p p :=
  ⟨hform, fun k hk => absurd (Nat.lt_of_lt_of_le hk (Nat.min_le_left _ _)) (Nat.not_lt_zero k), fun _ _ _ => rfl⟩

/-- R120: with the window full every level is dropped. -/
theorem LevelsPlaced.of_full {more : List Level} {l' : LoadSession} (hfull : rectArea l.window.val ≤ l.written)
    (hfull' : rectArea l'.window.val ≤ l'.written) (h : LevelsPlaced levels l' p q) : LevelsPlaced more l p q := by
  refine ⟨h.form, fun k hk => ?_, fun x y _ => h.others x y fun k hk => ?_⟩
  · rw [placedOf_of_full hfull] at hk
    cases hk
  · rw [placedOf_of_full hfull'] at hk
    cases hk

/-- R113: the cursor of a session with room is on the panel. -/
theorem cursorPixel_on_panel (window : Region) (order : Fin 8) {k : Nat} (hk : k < rectArea window.val) :
    (cursorPixel window.val order k).1 < 800 ∧ (cursorPixel window.val order k).2 < 600 := by
  obtain ⟨-, -, hc, hr⟩ := region_on_panel window
  have hin := cursorPixel_in_window (order := order) hk
  simp only [rectContains, Bool.and_eq_true, decide_eq_true_eq] at hin
  omega

theorem placedOf_succ (n : Nat) (hroom : l.written < rectArea l.window.val) :
    placedOf (n + 1) l = placedOf n (afterPixels 1 l) + 1 ∧ (afterPixels 1 l).written = l.written + 1 := by
  simp only [afterPixels, placedOf]
  omega

/-- R120: the first level at the cursor, the others from the next position on; the cursor does not come back to it. -/
theorem LevelsPlaced.cons {level : Level} (hform : planeWf 800 600 p = true) (hroom : l.written < rectArea l.window.val)
    (h : LevelsPlaced levels (afterPixels 1 l)
      (planeSet (cursorPixel l.window.val l.order l.written).1 (cursorPixel l.window.val l.order l.written).2 level p) q) :
    LevelsPlaced (level :: levels) l p q := by
  obtain ⟨hsucc, hwritten⟩ := placedOf_succ levels.length hroom
  have hfits : placedOf (levels.length + 1) l ≤ rectArea l.window.val - l.written := Nat.min_le_right _ _
  obtain ⟨hx, hy⟩ := cursorPixel_on_panel l.window l.order hroom
  have hset (x y : Nat) := planeAt_planeSet 800 600 _ _ level p x y hform hx hy
  have hlater (k : Nat) : (afterPixels 1 l).written + k = l.written + (k + 1) := by omega
  refine ⟨h.form, fun k hk => ?_, fun x y hother => ?_⟩
  · cases k with
    | zero =>
      have hfirst := h.others (cursorPixel l.window.val l.order l.written).1 (cursorPixel l.window.val l.order l.written).2
        fun k hk heq => by
          have hsame := cursorPixel_inj (r := l.window.val) (order := l.order) (by omega) hroom heq
          omega
      rw [hset, if_pos ⟨rfl, rfl⟩] at hfirst
      exact hfirst
    | succ k =>
      rw [← hlater]
      exact h.placed k (by rw [List.length_cons] at hk; omega)
  · rw [h.others x y fun k hk => by rw [hlater]; exact hother (k + 1) (by rw [List.length_cons]; omega), hset, if_neg]
    rintro ⟨rfl, rfl⟩
    exact hother 0 (by rw [List.length_cons]; omega) rfl

/-- R120: what the pixels of a Load Data leave in Pending. -/
theorem placePixels_plane (levels : List Level) (h : sessionSound l) (hform : planeWf 800 600 p = true) :
    LevelsPlaced levels l p (placePixels levels l p).2 := by
  unfold placePixels
  induction levels generalizing l p with
  | nil => exact .nil l hform
  | cons level levels ih =>
    have hnext := sessionSound_afterPixels 1 h
    rw [List.foldl_cons]
    by_cases hroom : l.written < rectArea l.window.val
    · obtain ⟨hx, hy⟩ := cursorPixel_on_panel l.window l.order hroom
      rw [placePixel_of_room h hroom]
      exact .cons hform hroom (ih hnext (planeWf_planeSet _ _ _ _ _ _ hform hx hy))
    · have hfull := Nat.not_lt.mp hroom
      rw [placePixel_of_full hfull]
      exact .of_full hfull (Nat.le_add_right_of_le hfull) (ih hnext hform)

end

section
variable {s : State} {r : Request}

theorem exec_loadData (h : takes s .loadData r) : exec .loadData s = .next (takeLoadData r s) :=
  congrArg Host.Outcome.next (dispatch_of_takes takeLoadData h)

theorem takeLoadData_of_error {st : Status} (h : loadDataFields r.payload = .error st) :
    takeLoadData r s = answerEntry r st [] .nothing s := by
  rw [takeLoadData, h]

section
variable {levels : List Level} (h : loadDataFields r.payload = .ok levels)
include h

theorem takeLoadData_of_closed (hload : s.load = none) : takeLoadData r s = answerEntry r .noLoad [] .nothing s := by
  simp only [takeLoadData, h, hload]

theorem takeLoadData_of_open {l : LoadSession} (hload : s.load = some l) : takeLoadData r s =
    answerEntry r .ok (loadDataRecord levels.length l (placePixels levels l s.pendingPlane).1) .nothing
      { s with load := some (placePixels levels l s.pendingPlane).1, pendingPlane := (placePixels levels l s.pendingPlane).2 } := by
  simp only [takeLoadData, h, hload]

end

/-- R120, R190: the reply counts what was placed and dropped, and says whether the window is full. -/
theorem loadDataRecord_afterPixels {l : LoadSession} (n : Nat) (h : sessionSound l) : loadDataRecord n l (afterPixels n l) =
    leBytes 2 (placedOf n l) ++ leBytes 2 (n - placedOf n l) ++
      flagByte (decide (l.written + placedOf n l = rectArea l.window.val)) :: leBytes 4 (l.written + placedOf n l) := by
  obtain ⟨hfits, -⟩ := sessionSound_afterPixels n h
  have hfull : windowFull (afterPixels n l) = decide (l.written + placedOf n l = rectArea l.window.val) :=
    decide_eq_decide.mpr ⟨Nat.le_antisymm hfits, fun e => e.ge⟩
  rw [loadDataRecord, hfull, afterPixels, Nat.add_sub_cancel_left]

end

/-- Settles O44: the checks by the payload; then the counts and Pending after the pixels, one pixel after another. -/
theorem loadDataPlacesPixels : Obligations.LoadDataPlacesPixels := by
  refine ⟨fun s r htakes => ?_, fun s r l levels data hplanes hloads htakes hload hp hlow hhigh hdata hlevels => ?_⟩
  · rw [exec_loadData htakes]
    refine ⟨fun hshort => by rw [takeLoadData_of_error (loadDataFields_of_short hshort)], fun count data hp hcount => ?_⟩
    refine ⟨fun hdata => ?_, fun hdata hrange => ?_, fun hdata hlow hhigh hload => ?_⟩
    · rw [takeLoadData_of_error (by rw [hp, loadDataFields_of_length hcount hdata])]
    · rw [takeLoadData_of_error (by rw [hp, loadDataFields_of_range hcount hdata hrange])]
    · rw [takeLoadData_of_closed (by rw [hp, loadDataFields_of_levels hlow hhigh hdata]) hload]
  · have hsound := (loadLaw_iff s).mp hloads l hload
    have hfields : loadDataFields r.payload = .ok levels := by rw [hp, loadDataFields_of_levels hlow hhigh hdata, hlevels]
    have hplaced := placePixels_plane levels hsound hplanes.1
    refine ⟨placedOf levels.length l, _, rfl, ?_, hplaced.placed, hplaced.others⟩
    rw [exec_loadData htakes, takeLoadData_of_open hfields hload, placePixels_session levels hsound,
      loadDataRecord_afterPixels _ hsound]
    rfl

end Sys2Proof.Machine
end

section
/-! Read Pixels (R123, R124): its fields, the values of a rectangle in row-major order, and levels packed two to a byte. -/

namespace Sys2Proof.Machine

/-! ### The fields (R123) -/

section
variable {rect : Rect} {b : Byte} {rest : List Byte}

theorem readPixelsFields_of_length {p : List Byte} (h : p.length ≠ 9) : readPixelsFields p = .error .badLength := if_pos h

theorem planeFieldOf_eq_none {b : Byte} (h : 1 < b.toNat) : planeFieldOf b = none :=
  (if_neg fun h0 => by subst h0; cases h).trans (if_neg fun h1 => by subst h1; exact absurd h (by decide))

theorem readPixelsFields_of_badPlane (hlength : rest.length = 8) (h : 1 < b.toNat) :
    readPixelsFields (b :: rest) = .error .badField := by
  simp [readPixelsFields, hlength, planeFieldOf_eq_none h]

theorem readPixelsPayload_length (ofShown : Bool) (rect : Rect) : (flagByte ofShown :: rectBytes rect).length = 9 := by simp

theorem readPixelsFields_of_badRect (ofShown : Bool) (hcol : rect.col < 65536) (hrow : rect.row < 65536)
    (hwidth : rect.width < 65536) (hheight : rect.height < 65536) (h : rectValid rect = false) :
    readPixelsFields (flagByte ofShown :: rectBytes rect) = .error .badRect := by
  have hrect : rectField (flagByte ofShown :: rectBytes rect) 1 = rect := by
    simpa using rectField_append [flagByte ofShown] [] rect hcol hrow hwidth hheight
  simp only [readPixelsFields, readPixelsPayload_length, ne_eq, not_true, if_false, byteField_zero_cons, planeFieldOf_flagByte,
    hrect, regionOf_eq_none h]

theorem readPixelsFields_of_region (ofShown : Bool) (r : Region) :
    readPixelsFields (flagByte ofShown :: rectBytes r.val) =
      if rectArea r.val ≤ 1000 then .ok (ofShown, r) else .error .badRect := by
  have hrect : rectField (flagByte ofShown :: rectBytes r.val) 1 = r.val := by
    simpa using rectField_region [flagByte ofShown] [] r
  simp only [readPixelsFields, readPixelsPayload_length, ne_eq, not_true, if_false, byteField_zero_cons, planeFieldOf_flagByte,
    hrect, regionOf_val]

end

/-! ### The values of a rectangle (R1, R124) -/

/-- R1: the pixels of a region are on the panel. -/
theorem rowMajorPixel_on_panel (r : Region) {k : Nat} (hk : k < rectArea r.val) :
    (rowMajorPixel r.val k).1 < 800 ∧ (rowMajorPixel r.val k).2 < 600 := by
  obtain ⟨hwidth, -, hc, hr⟩ := region_on_panel r
  have hx : k % r.val.width < r.val.width := Nat.mod_lt _ hwidth
  have hy : k / r.val.width < r.val.height := Nat.div_lt_of_lt_mul hk
  simp only [rowMajorPixel]
  omega

section
variable {α : Type} [DecidableEq α] {p : Plane α} (hform : planeWf 800 600 p = true) (r : Region)
include hform

/-- R124: one value for each pixel. -/
theorem readRect_map_some : (readRect p r.val).map some =
    (List.range (rectArea r.val)).map fun k => planeAt p (rowMajorPixel r.val k).1 (rowMajorPixel r.val k).2 := by
  rw [readRect, List.map_filterMap_some_eq_filter_map_isSome, rectPixels, List.map_map]
  refine List.filter_eq_self.mpr fun v hv => ?_
  obtain ⟨k, hk, rfl⟩ := List.mem_map.mp hv
  exact (planeAt_isSome 800 600 _ _ p hform).mpr (rowMajorPixel_on_panel r (List.mem_range.mp hk))

theorem readRect_length : (readRect p r.val).length = rectArea r.val := by
  simpa using congrArg List.length (readRect_map_some hform r)

theorem readRect_getElem? {k : Nat} (hk : k < rectArea r.val) :
    (readRect p r.val)[k]? = planeAt p (rowMajorPixel r.val k).1 (rowMajorPixel r.val k).2 := by
  have hmap := congrArg (·[k]?) (readRect_map_some hform r)
  have hk' : k < (readRect p r.val).length := (readRect_length hform r).symm ▸ hk
  simpa only [List.getElem?_map, List.getElem?_range hk, List.getElem?_eq_getElem hk', Option.map_some, Option.some.injEq]
    using hmap

end

/-! ### Packed levels (R124) -/

theorem unpackByte_pair (a b : Level) : unpackByte (byteOf (16 * a.val + b.val)) = [a, b] := by
  have ha := a.isLt
  have hb := b.isLt
  rw [unpackByte, byteOf_toNat _ (by omega)]
  congr
  · exact Fin.ext (show (16 * a.val + b.val) / 16 % 16 = a.val by omega)
  · exact Fin.ext (show (16 * a.val + b.val) % 16 = b.val by omega)

/-- The levels read back: those packed, and after an odd last one a level 0. -/
theorem unpack_packLevels (levels : List Level) :
    (packLevels levels).flatMap unpackByte = levels ++ List.replicate (levels.length % 2) 0 := by
  induction levels using packLevels.induct with
  | case1 => rfl
  | case2 a => exact congrArg (· ++ []) (unpackByte_pair a 0)
  | case3 a b t ih =>
    have hodd : (a :: b :: t).length % 2 = t.length % 2 := Nat.add_mod_right t.length 2
    rw [packLevels, List.flatMap_cons, ih, unpackByte_pair, hodd]
    rfl

theorem packLevels_length (levels : List Level) : (packLevels levels).length = (levels.length + 1) / 2 := by
  induction levels using packLevels.induct with
  | case1 => rfl
  | case2 a => simp [packLevels]
  | case3 a b t ih =>
    rw [packLevels, List.length_cons, ih, List.length_cons, List.length_cons]
    omega

section
variable {levels : List Level} {k : Nat}

theorem unpack_packLevels_level (hk : k < levels.length) : ((packLevels levels).flatMap unpackByte)[k]? = levels[k]? := by
  rw [unpack_packLevels, List.getElem?_append_left hk]

theorem unpack_packLevels_pad (hk : levels.length ≤ k) (hend : k < 2 * (packLevels levels).length) :
    ((packLevels levels).flatMap unpackByte)[k]? = some 0 := by
  rw [packLevels_length] at hend
  rw [unpack_packLevels, List.getElem?_append_right hk, List.getElem?_replicate, if_pos (by omega)]

end

section
variable {s : State} {r : Request}

/-! ### Read Pixels -/

theorem exec_readPixels (h : takes s .readPixels r) : exec .readPixels s = .next (takeReadPixels r s) :=
  congrArg Host.Outcome.next (dispatch_of_takes takeReadPixels h)

theorem takeReadPixels_of_error {st : Status} (h : readPixelsFields r.payload = .error st) :
    takeReadPixels r s = answerEntry r st [] .nothing s := by
  rw [takeReadPixels, h]

/-- R124: the values a Read Pixels answers with. -/
def pixelValues (s : State) (ofShown : Bool) (r : Rect) : List Byte :=
  if ofShown then (readRect s.shown r).map pixelByte else packLevels (readRect s.pendingPlane r)

theorem takeReadPixels_of_region {ofShown : Bool} {rect : Region} (h : readPixelsFields r.payload = .ok (ofShown, rect)) :
    takeReadPixels r s =
      answerEntry r .ok (flagByte ofShown :: (rectBytes rect.val ++ pixelValues s ofShown rect.val)) .nothing s := by
  rw [takeReadPixels, h]
  rfl

end

/-- Settles O46: the checks by the payload; the values of Shown one by one, those of Pending read back from the packed bytes. -/
theorem readPixelsReturnsThePlane : Obligations.ReadPixelsReturnsThePlane := by
  refine ⟨fun s r htakes => ?_, fun s r rect ofShown hplanes htakes hp => ?_⟩
  · rw [exec_readPixels htakes]
    refine ⟨fun hlength => ?_, fun b rest hp hrest hb => ?_, fun rect ofShown hp hcol hrow hwidth hheight hbad => ?_⟩
    · rw [takeReadPixels_of_error (readPixelsFields_of_length hlength)]
    · rw [takeReadPixels_of_error (by rw [hp, readPixelsFields_of_badPlane hrest hb])]
    · rw [takeReadPixels_of_error (by rw [hp, readPixelsFields_of_badRect ofShown hcol hrow hwidth hheight hbad])]
  · rw [exec_readPixels htakes]
    obtain ⟨hpending, -, hshown, -⟩ := hplanes
    have hfields := readPixelsFields_of_region ofShown rect
    rw [← hp] at hfields
    refine ⟨fun hlarge => ?_, fun hsmall => ⟨pixelValues s ofShown rect.val, ?_, ?_, ?_⟩⟩
    · rw [takeReadPixels_of_error (hfields.trans (if_neg (Nat.not_le.mpr hlarge)))]
    · rw [takeReadPixels_of_region (hfields.trans (if_pos hsmall))]
    · rintro rfl
      refine ⟨(List.length_map _).trans (readRect_length hshown rect), fun k hk => ?_⟩
      exact List.getElem?_map.trans (congrArg _ (readRect_getElem? hshown rect hk))
    · rintro rfl
      have hlength := readRect_length hpending rect
      refine ⟨(packLevels_length _).trans (by rw [hlength]), fun k hk => ?_, fun k hk hend => ?_⟩
      · exact (unpack_packLevels_level (hlength.symm ▸ hk)).trans (readRect_getElem? hpending rect hk)
      · exact unpack_packLevels_pad (hlength.symm ▸ hk) hend

end Sys2Proof.Machine
end

section
/-! What leaves the Pixel Loader and the Raster Unit as they were: the Control Line, the rails and the evaluations, and all requests
and events but those of the two blocks and the resets. -/

namespace Sys2Proof.Machine

/-- The Pixel Loader and the Raster Unit are as they were. -/
structure UnitsKept (s t : State) : Prop where
  load : t.load = s.load
  raster : t.raster = s.raster

section
variable {s t u : State}

theorem UnitsKept.refl (s : State) : UnitsKept s s := ⟨rfl, rfl⟩

theorem UnitsKept.trans (h : UnitsKept s t) (k : UnitsKept t u) : UnitsKept s u :=
  ⟨k.load.trans h.load, k.raster.trans h.raster⟩

theorem UnitsKept.of_railsFrame (h : railsFrame s t) : UnitsKept s t := ⟨by rw [h], by rw [h]⟩

theorem UnitsKept.of_driveFrame (h : driveFrame s t) : UnitsKept s t := .of_railsFrame (railsFrame_of_driveFrame h)

theorem UnitsKept.of_linkFrame (h : linkFrame s t) : UnitsKept s t := ⟨by rw [h], by rw [h]⟩

theorem UnitsKept.evaluated (h : UnitsKept s t) : UnitsKept s (evaluate t) := h.trans (.of_railsFrame (evaluate_railsFrame t))

theorem UnitsKept.answered (h : UnitsKept s t) (r : Request) (st : Status) (fields : List Byte) (effect : ReplyEffect) :
    UnitsKept s (answerEntry r st fields effect t) := ⟨h.load, h.raster⟩

end

/-! ### Requests -/

section
variable (r : Request) (s : State)

theorem answerEntry_unitsKept (st : Status) (fields : List Byte) (effect : ReplyEffect) :
    UnitsKept s (answerEntry r st fields effect s) := ⟨rfl, rfl⟩

theorem setBank_unitsKept (bank : BankId) (v : Bank) : UnitsKept s (setBank bank v s) :=
  .of_driveFrame (setBank_driveFrame bank v s)

theorem reportStatus_unitsKept : UnitsKept s (reportStatus r s) := by
  unfold reportStatus
  split <;> exact answerEntry_unitsKept r s ..

theorem reportParameter_unitsKept : UnitsKept s (reportParameter r s) := by
  unfold reportParameter
  split <;> exact answerEntry_unitsKept r s ..

theorem takeRestart_unitsKept : UnitsKept s (takeRestart r s) := by
  unfold takeRestart
  split <;> exact ⟨rfl, rfl⟩

theorem grant_unitsKept : UnitsKept s (grant r s) := by
  unfold grant
  split <;> exact ⟨rfl, rfl⟩

theorem submitUpdate_unitsKept : UnitsKept s (submitUpdate r s) := by
  unfold submitUpdate
  split
  · exact answerEntry_unitsKept r s ..
  · split
    · exact answerEntry_unitsKept r s ..
    · exact .evaluated ⟨rfl, rfl⟩

theorem cancelUpdate_unitsKept : UnitsKept s (cancelUpdate r s) := by
  unfold cancelUpdate
  split
  · exact answerEntry_unitsKept r s ..
  · split
    · exact .evaluated ⟨rfl, rfl⟩
    · split <;> exact answerEntry_unitsKept r s ..

theorem queryUpdate_unitsKept : UnitsKept s (queryUpdate r s) := by
  unfold queryUpdate
  split <;> exact answerEntry_unitsKept r s ..

/-- R54, R57: a Halt begun. -/
theorem beginHalt_railsFrame (flush : Bool) : railsFrame s (beginHalt flush s) := by
  have hdeferred : railsFrame s (deferEntry .halt { s with halt := .halting }) := rfl
  have hflushed := railsFrame_of_driveFrame (flushIfAsked_frame flush (deferEntry .halt { s with halt := .halting })).1
  exact railsFrame_trans hdeferred (railsFrame_trans hflushed (railsFrame_trans (fastFallRequest_railsFrame _)
    (railsFrame_trans (railsFrame_of_driveFrame (abortUnlessOn_driveFrame _)) (haltedIfIdle_railsFrame _))))

theorem takeHalt_unitsKept : UnitsKept s (takeHalt r s) := by
  unfold takeHalt
  split
  · exact answerEntry_unitsKept r s ..
  · rename_i flush _
    split
    case h_3 =>
      have hflushed := railsFrame_of_driveFrame (flushIfAsked_frame flush s).1
      exact (UnitsKept.of_railsFrame (railsFrame_trans hflushed (fastFallRequest_railsFrame _))).answered ..
    all_goals exact .of_railsFrame (beginHalt_railsFrame s flush)

theorem takeResume_unitsKept : UnitsKept s (takeResume r s) := by
  unfold takeResume
  split
  · exact answerEntry_unitsKept r s ..
  · split
    case h_3 => exact .evaluated ⟨rfl, rfl⟩
    all_goals exact answerEntry_unitsKept r s ..

theorem openBank_unitsKept : UnitsKept s (openBank r s) := by
  unfold openBank
  split
  · exact answerEntry_unitsKept r s ..
  · split
    case h_1 | h_2 | h_3 => exact (setBank_unitsKept s ..).answered ..
    all_goals exact answerEntry_unitsKept r s ..

theorem storeBankData_unitsKept : UnitsKept s (storeBankData r s) := by
  unfold storeBankData
  split
  · exact answerEntry_unitsKept r s ..
  · split
    case h_1 => exact (setBank_unitsKept s ..).answered ..
    all_goals exact answerEntry_unitsKept r s ..

theorem beginVerify_unitsKept : UnitsKept s (beginVerify r s) := by
  unfold beginVerify
  split
  · exact answerEntry_unitsKept r s ..
  · split
    case h_1 =>
      split
      · exact answerEntry_unitsKept r s ..
      · exact (setBank_unitsKept s ..).trans ⟨rfl, rfl⟩
    all_goals exact answerEntry_unitsKept r s ..

theorem takeActivate_unitsKept : UnitsKept s (takeActivate r s) := by
  unfold takeActivate activateBank
  split
  · exact answerEntry_unitsKept r s ..
  · split
    case h_5 | h_6 => exact ((setBank_unitsKept s ..).trans (setBank_unitsKept _ ..)).answered ..
    all_goals exact answerEntry_unitsKept r s ..

theorem eraseBank_unitsKept : UnitsKept s (eraseBank r s) := by
  unfold eraseBank
  split
  · exact answerEntry_unitsKept r s ..
  · split
    case h_2 | h_3 => exact (setBank_unitsKept s ..).answered ..
    all_goals exact answerEntry_unitsKept r s ..

theorem clearFault_unitsKept : UnitsKept s (clearFault r s) := by
  unfold clearFault
  split
  · exact answerEntry_unitsKept r s ..
  · split
    · exact .evaluated ⟨rfl, rfl⟩
    · exact answerEntry_unitsKept r s ..

theorem takeReadPixels_unitsKept : UnitsKept s (takeReadPixels r s) := by
  unfold takeReadPixels
  split <;> exact answerEntry_unitsKept r s ..

/-- R84, R85. -/
theorem setReading_unitsKept (value : Int) : UnitsKept s (setReading value s) := by
  unfold setReading
  dsimp only
  split
  · exact ⟨rfl, rfl⟩
  · exact .evaluated ⟨rfl, rfl⟩

theorem reportTemperature_unitsKept : UnitsKept s (reportTemperature r s) := by
  unfold reportTemperature
  split
  · exact answerEntry_unitsKept r s ..
  · split
    · exact answerEntry_unitsKept r s ..
    · exact (answerEntry_unitsKept r s ..).trans (setReading_unitsKept _ _)

theorem limitChanged_unitsKept (wasValid : Bool) : UnitsKept s (limitChanged wasValid s) := by
  unfold limitChanged
  split
  · exact .refl s
  · split
    · exact ⟨rfl, rfl⟩
    · split
      · exact (UnitsKept.refl s).evaluated
      · exact .refl s

theorem parameterActs_unitsKept (q : ParamId) (before : State) : UnitsKept s (parameterActs q before s) := by
  unfold parameterActs
  split
  · rw [sourceChanged_eq]
    exact ⟨rfl, rfl⟩
  · exact limitChanged_unitsKept s _
  · exact .refl s

/-- R177. -/
theorem setParameter_unitsKept : UnitsKept s (setParameter r s) := by
  unfold setParameter changeParameter
  split
  · exact answerEntry_unitsKept r s ..
  · split
    · exact answerEntry_unitsKept r s ..
    · refine .trans ?_ (parameterActs_unitsKept _ _ _)
      exact ⟨rfl, rfl⟩

end

/-! ### Events -/

section
variable (s : State)

theorem finishWork_unitsKept (work : Work) (st : Status) (fields : List Byte) :
    UnitsKept s (finishWork work st fields s) := ⟨rfl, rfl⟩

theorem ageReading_unitsKept (g : Reading) : UnitsKept s (ageReading g s) := by
  unfold ageReading
  dsimp only
  split <;> exact ⟨rfl, rfl⟩

/-- R97, R101: power-good lost. -/
theorem losePower_railsFrame : railsFrame s (losePower s) := by
  unfold losePower loseSettling
  split
  case h_2 =>
    split
    · split
      · exact enterFault_railsFrame _ s
      · rfl
    · rfl
  case h_3 | h_4 => exact enterFault_railsFrame _ s
  all_goals rfl

/-- R102. -/
theorem fallEnds_railsFrame : railsFrame s (fallEnds s) := by
  have hoff : railsFrame s { s with rails := { s.rails with state := .off, fallTimer := none } } := rfl
  unfold fallEnds
  dsimp only
  split
  · exact railsFrame_trans hoff (enterRising_railsFrame _)
  · exact hoff

theorem execVerificationComplete_unitsKept (bank : BankId) :
    holdsAfter (UnitsKept s) (execVerificationComplete bank s) := by
  unfold execVerificationComplete
  split
  · exact (setBank_unitsKept s ..).trans (finishWork_unitsKept _ ..)
  · exact .refl s

theorem execFrameBoundary_unitsKept : holdsAfter (UnitsKept s) (execFrameBoundary s) := by
  unfold execFrameBoundary
  split
  · exact .refl s
  · exact .of_railsFrame (deliverBoundary_railsFrame s)

theorem execPowerGoodAssert_unitsKept : holdsAfter (UnitsKept s) (execPowerGoodAssert s) := by
  unfold execPowerGoodAssert
  split
  · exact .refl s
  · split <;> exact ⟨rfl, rfl⟩

theorem execPowerGoodLoss_unitsKept : holdsAfter (UnitsKept s) (execPowerGoodLoss s) := by
  have hlow : UnitsKept s { s with powerGood := false } := ⟨rfl, rfl⟩
  unfold execPowerGoodLoss
  split
  · split
    · exact hlow.trans (.of_railsFrame (losePower_railsFrame _))
    · exact hlow
  · exact .refl s

theorem execRiseTimerExpiry_unitsKept : holdsAfter (UnitsKept s) (execRiseTimerExpiry s) := by
  unfold execRiseTimerExpiry
  split
  · split
    · exact ⟨rfl, rfl⟩
    · exact .of_railsFrame (enterFault_railsFrame _ s)
  · exact .refl s

theorem execSettleTimerExpiry_unitsKept : holdsAfter (UnitsKept s) (execSettleTimerExpiry s) := by
  unfold execSettleTimerExpiry
  split
  · exact .of_railsFrame (enterOn_railsFrame s)
  · exact .refl s

theorem execHoldTimerExpiry_unitsKept : holdsAfter (UnitsKept s) (execHoldTimerExpiry s) := by
  unfold execHoldTimerExpiry
  split <;> exact ⟨rfl, rfl⟩

theorem execFallTimerExpiry_unitsKept : holdsAfter (UnitsKept s) (execFallTimerExpiry s) := by
  unfold execFallTimerExpiry
  split
  · exact .of_railsFrame (fallEnds_railsFrame s)
  · exact .refl s

theorem execConversionStart_unitsKept : holdsAfter (UnitsKept s) (execConversionStart s) := by
  unfold execConversionStart
  split <;> exact ⟨rfl, rfl⟩

theorem execConversionComplete_unitsKept (result : SensorResult) :
    holdsAfter (UnitsKept s) (execConversionComplete result s) := by
  have hidle : UnitsKept s { s with temp := { s.temp with converting := false } } := ⟨rfl, rfl⟩
  unfold execConversionComplete
  split
  · split
    · exact hidle.trans (setReading_unitsKept _ _)
    · exact .refl s
  · trivial

theorem execAgeRise_unitsKept : holdsAfter (UnitsKept s) (execAgeRise s) := by
  unfold execAgeRise
  split
  · exact .refl s
  · exact ageReading_unitsKept s _

theorem execReadingBecomesStale_unitsKept : holdsAfter (UnitsKept s) (execReadingBecomesStale s) := by
  unfold execReadingBecomesStale
  split
  · exact .refl s
  · split
    · exact ageReading_unitsKept s _
    · exact .refl s

theorem execStartUp_unitsKept : holdsAfter (UnitsKept s) (execStartUp s) := by
  unfold execStartUp
  split <;> exact ⟨rfl, rfl⟩

theorem execStartUpEnd_unitsKept : holdsAfter (UnitsKept s) (execStartUpEnd s) := by
  unfold execStartUpEnd
  split <;> exact ⟨rfl, rfl⟩

end

end Sys2Proof.Machine
end

section
/-! The law of the Raster Unit and the Pixel Loader (R113, R116, R130): what a step can do to the two blocks, said once, and that
each of these things keeps the law. -/

namespace Sys2Proof.Machine

/-! ### What a step does to the two blocks -/

/-- What a step can do to the Pixel Loader and the Raster Unit: nothing; both reset; a session opened with no job about, taken
further by some pixels, or closed; a job joining while no session is OPEN; the oldest job writing a pixel, or ending. -/
inductive UnitsStep (s t : State) : Prop
  | kept (h : UnitsKept s t)
  | reset (hload : t.load = none) (hraster : t.raster = .reset)
  | opened (window : Region) (order : Fin 8) (hidle : s.raster.jobs = []) (hload : t.load = some (newSession window order))
      (hraster : t.raster = s.raster)
  | loaded (l : LoadSession) (levels : List Level) (p : Plane Level) (hopen : s.load = some l)
      (hload : t.load = some (placePixels levels l p).1) (hraster : t.raster = s.raster)
  | closed (hload : t.load = none) (hraster : t.raster = s.raster)
  | joined (n : Nat) (kind : JobKind) (hclosed : s.load = none) (hcounter : s.raster.counter = .next n)
      (hroom : s.raster.jobs.length < Config.jobCapacity) (hload : t.load = s.load) (hraster : t.raster = withJob n kind s)
  | wrote (j : Job) (rest : List Job) (written : Nat) (image : Plane Level) (hjobs : s.raster.jobs = j :: rest)
      (hload : t.load = s.load)
      (hraster : t.raster = { s.raster with jobs := { j with progress := .running written image } :: rest })
  | finished (j : Job) (rest : List Job) (p : Plane Level) (hjobs : s.raster.jobs = j :: rest) (hload : t.load = s.load)
      (hraster : t.raster = { s.raster with jobs := startOldest p rest, mark := j.number })

section
variable {s t : State} {r : Request} {o : Host.Outcome State Fault Refusal}

theorem UnitsStep.refl (s : State) : UnitsStep s s := .kept (.refl s)

/-- R158: a taking does what the request does. -/
theorem dispatch_unitsStep (code : RequestCode) {run : Request → State → State}
    (h : ∀ r, takes s code r → UnitsStep s (run r s)) : UnitsStep s (dispatch code run s) := by
  obtain e | ⟨r, htakes, e⟩ := dispatch_cases code run s
  · rw [e]; exact .refl s
  · rw [e]; exact h r htakes

theorem dispatch_unitsKept (code : RequestCode) {run : Request → State → State} (h : ∀ r, UnitsKept s (run r s)) :
    UnitsStep s (dispatch code run s) := dispatch_unitsStep code fun r _ => .kept (h r)

theorem unitsStep_of_kept (h : holdsAfter (UnitsKept s) o) : holdsAfter (UnitsStep s) o :=
  holdsAfter_mono (fun _ k => .kept k) h

theorem unitsStep_of_link (h : holdsAfter (linkFrame s) o) : holdsAfter (UnitsStep s) o :=
  holdsAfter_mono (fun _ k => .kept (.of_linkFrame k)) h

/-- R159: an entry that is taken is not held. -/
theorem held_of_takes {code : RequestCode} (h : takes s code r) : held s r = false := (nextRequest_eq_some h.1).2.2.2

/-- R116, R159: a Load Open is held while a job is about. -/
theorem jobs_of_takes_loadOpen (h : takes s .loadOpen r) : s.raster.jobs = [] := by
  have hfree := held_of_takes h
  simp only [held, h.2] at hfree
  simpa using hfree

/-- R131, R159: a Fill and a Copy are held while the queue of jobs is full. -/
theorem room_of_takes_job {code : RequestCode} (hcode : code = .fill ∨ code = .copy) (h : takes s code r) :
    s.raster.jobs.length < Config.jobCapacity := by
  have hfree := held_of_takes h
  obtain rfl | rfl := hcode <;> simpa only [held, h.2, decide_eq_false_iff_not, Nat.not_le] using hfree

/-- R117, R118. -/
theorem takeLoadOpen_unitsStep (htakes : takes s .loadOpen r) : UnitsStep s (takeLoadOpen r s) := by
  have hidle := jobs_of_takes_loadOpen htakes
  unfold takeLoadOpen
  split
  · exact .kept (answerEntry_unitsKept r s ..)
  · split
    · exact .opened _ _ hidle rfl rfl
    · exact .opened _ _ hidle (evaluate_load _) (evaluate_raster _)

/-- R120. -/
theorem takeLoadData_unitsStep (r : Request) (s : State) : UnitsStep s (takeLoadData r s) := by
  unfold takeLoadData
  split
  · exact .kept (answerEntry_unitsKept r s ..)
  · split
    · exact .kept (answerEntry_unitsKept r s ..)
    · exact .loaded _ _ _ ‹_› rfl rfl

/-- R121. -/
theorem takeLoadClose_unitsStep (r : Request) (s : State) : UnitsStep s (takeLoadClose r s) := by
  unfold takeLoadClose
  split
  · exact .kept (answerEntry_unitsKept r s ..)
  · split
    · exact .kept (answerEntry_unitsKept r s ..)
    · exact .closed (evaluate_load _) (evaluate_raster _)

/-- R132 to R134. -/
theorem takeJob_unitsStep (r : Request) (kind : JobKind) (hroom : s.raster.jobs.length < Config.jobCapacity) :
    UnitsStep s (takeJob r kind s) := by
  unfold takeJob
  split
  · exact .kept (answerEntry_unitsKept r s ..)
  · rename_i hclosed
    split
    · exact .kept (answerEntry_unitsKept r s ..)
    · exact .joined _ kind (by simpa using hclosed) ‹_› hroom rfl rfl

theorem takeFill_unitsStep (htakes : takes s .fill r) : UnitsStep s (takeFill r s) := by
  unfold takeFill
  split
  · exact .kept (answerEntry_unitsKept r s ..)
  · exact takeJob_unitsStep r _ (room_of_takes_job (.inl rfl) htakes)

theorem takeCopy_unitsStep (htakes : takes s .copy r) : UnitsStep s (takeCopy r s) := by
  unfold takeCopy
  split
  · exact .kept (answerEntry_unitsKept r s ..)
  · exact takeJob_unitsStep r _ (room_of_takes_job (.inr rfl) htakes)

/-- R136, R137. -/
theorem execJobWritesPixel_unitsStep (s : State) : holdsAfter (UnitsStep s) (execJobWritesPixel s) := by
  unfold execJobWritesPixel
  split
  · exact .refl s
  · split
    · exact .refl s
    · split
      · exact .wrote _ _ _ _ ‹_› rfl rfl
      · exact .refl s

/-- R138. -/
theorem execJobCompletion_unitsStep (s : State) : holdsAfter (UnitsStep s) (execJobCompletion s) := by
  unfold execJobCompletion
  split
  · exact .refl s
  · split
    · exact .refl s
    · exact .finished _ _ _ ‹_› (evaluate_load _) (evaluate_raster _)

/-- R162: the end of a reply: a Restart's resets both blocks. -/
theorem execReplySent_unitsStep (s : State) : holdsAfter (UnitsStep s) (execReplySent s) := by
  unfold execReplySent
  split
  · rename_i q cacheable _
    have hsettled : linkFrame s (setTransmitter .idle (settleReply q cacheable s)) :=
      linkFrame_trans (settleReply_linkFrame q cacheable s) rfl
    cases heffect : q.effect with
    | nothing => exact .kept (.of_linkFrame hsettled)
    | lineRate baud =>
      exact .kept (.of_linkFrame (linkFrame_trans hsettled (linkFrame_trans (checkFrame_linkFrame _)
        (changeLineRate_linkFrame baud _))))
    | restart => exact .reset rfl rfl
  · exact .refl s
  · exact .refl s

/-- Every command does one of these things to the two blocks. -/
theorem exec_unitsStep (c : Instr) (s : State) : holdsAfter (UnitsStep s) (exec c s) := by
  cases c with
  | frame => exact unitsStep_of_link (execFrame_linkFrame s)
  | gapTimeout => exact unitsStep_of_link (execGapTimeout_linkFrame s)
  | hello => exact unitsStep_of_link (execHello_linkFrame s)
  | unknownCode => exact unitsStep_of_link (execUnknownCode_linkFrame s)
  | getStatus => exact dispatch_unitsKept _ (reportStatus_unitsKept · s)
  | getParameter => exact dispatch_unitsKept _ (reportParameter_unitsKept · s)
  | setParameter => exact dispatch_unitsKept _ (setParameter_unitsKept · s)
  | restart => exact dispatch_unitsKept _ (takeRestart_unitsKept · s)
  | grantNotices => exact dispatch_unitsKept _ (grant_unitsKept · s)
  | submitUpdate => exact dispatch_unitsKept _ (submitUpdate_unitsKept · s)
  | cancelUpdate => exact dispatch_unitsKept _ (cancelUpdate_unitsKept · s)
  | queryUpdate => exact dispatch_unitsKept _ (queryUpdate_unitsKept · s)
  | halt => exact dispatch_unitsKept _ (takeHalt_unitsKept · s)
  | resume => exact dispatch_unitsKept _ (takeResume_unitsKept · s)
  | bankOpen => exact dispatch_unitsKept _ (openBank_unitsKept · s)
  | bankData => exact dispatch_unitsKept _ (storeBankData_unitsKept · s)
  | bankVerify => exact dispatch_unitsKept _ (beginVerify_unitsKept · s)
  | bankActivate => exact dispatch_unitsKept _ (takeActivate_unitsKept · s)
  | bankErase => exact dispatch_unitsKept _ (eraseBank_unitsKept · s)
  | temperatureReport => exact dispatch_unitsKept _ (reportTemperature_unitsKept · s)
  | clearFault => exact dispatch_unitsKept _ (clearFault_unitsKept · s)
  | loadOpen => exact dispatch_unitsStep _ fun _ h => takeLoadOpen_unitsStep h
  | loadData => exact dispatch_unitsStep _ fun r _ => takeLoadData_unitsStep r s
  | loadClose => exact dispatch_unitsStep _ fun r _ => takeLoadClose_unitsStep r s
  | readPixels => exact dispatch_unitsKept _ (takeReadPixels_unitsKept · s)
  | fill => exact dispatch_unitsStep _ fun _ h => takeFill_unitsStep h
  | copy => exact dispatch_unitsStep _ fun _ h => takeCopy_unitsStep h
  | jobCompletion => exact execJobCompletion_unitsStep s
  | verificationComplete bank => exact unitsStep_of_kept (execVerificationComplete_unitsKept s bank)
  | frameBoundary => exact unitsStep_of_kept (execFrameBoundary_unitsKept s)
  | powerGoodAssert => exact unitsStep_of_kept (execPowerGoodAssert_unitsKept s)
  | powerGoodLoss => exact unitsStep_of_kept (execPowerGoodLoss_unitsKept s)
  | riseTimerExpiry => exact unitsStep_of_kept (execRiseTimerExpiry_unitsKept s)
  | settleTimerExpiry => exact unitsStep_of_kept (execSettleTimerExpiry_unitsKept s)
  | holdTimerExpiry => exact unitsStep_of_kept (execHoldTimerExpiry_unitsKept s)
  | fallTimerExpiry => exact unitsStep_of_kept (execFallTimerExpiry_unitsKept s)
  | conversionStart => exact unitsStep_of_kept (execConversionStart_unitsKept s)
  | conversionComplete result => exact unitsStep_of_kept (execConversionComplete_unitsKept s result)
  | ageRise => exact unitsStep_of_kept (execAgeRise_unitsKept s)
  | readingBecomesStale => exact unitsStep_of_kept (execReadingBecomesStale_unitsKept s)
  | replyBegin => exact unitsStep_of_link (execReplyBegin_linkFrame s)
  | replySent => exact execReplySent_unitsStep s
  | noticeBegin => exact unitsStep_of_link (execNoticeBegin_linkFrame s)
  | noticeSent => exact unitsStep_of_link (execNoticeSent_linkFrame s)
  | pinReset => exact .reset rfl rfl
  | startUp => exact unitsStep_of_kept (execStartUp_unitsKept s)
  | startUpEnd => exact unitsStep_of_kept (execStartUpEnd_unitsKept s)
  | receivedByte value => exact unitsStep_of_link (execReceivedByte_linkFrame value s)
  | jobWritesPixel => exact execJobWritesPixel_unitsStep s

end

/-! ### The law of the load session (R113) -/

/-- R113: whatever a step does to the session, its counts stay in their ranges. -/
theorem UnitsStep.loadLaw {s t : State} (h : UnitsStep s t) (hlaw : LoadLaw s) : LoadLaw t := by
  cases h with
  | kept h => exact fun l hl => hlaw l (h.load ▸ hl)
  | reset hload _ | closed hload _ => exact fun l hl => by rw [hload] at hl; cases hl
  | opened _ _ _ hload _ =>
    intro l hl
    cases hload.symm.trans hl
    exact ⟨Nat.zero_le _, Nat.zero_le _⟩
  | loaded l levels p hopen hload _ =>
    have hsound := (loadLaw_iff s).mp hlaw l hopen
    intro l' hl
    cases hload.symm.trans hl
    rw [placePixels_session levels hsound]
    exact sessionSound_afterPixels _ hsound
  | joined _ _ _ _ _ hload _ | wrote _ _ _ _ _ hload _ | finished _ _ _ _ hload _ =>
    exact fun l hl => hlaw l (hload ▸ hl)

/-! ### The law of the jobs (R130) -/

def jobNumbers (jobs : List Job) : List Nat := jobs.map (·.number)

/-- R130: what the law says of the Raster Unit by itself: the numbers of the jobs, and which job is RUNNING. -/
structure RasterSound (u : Raster) : Prop where
  room : (jobNumbers u.jobs).length ≤ Config.jobCapacity
  ascending : (jobNumbers u.jobs).Pairwise (· < ·)
  aboveMark : ∀ n ∈ jobNumbers u.jobs, u.mark < n
  below : ∀ n ∈ jobNumbers u.jobs, belowCounter n u.counter
  markBelow : belowCounter u.mark u.counter
  counter : ∀ n, u.counter = .next n → n ≤ Config.counter32Max
  running : oldestRuns u.jobs

theorem rasterLaw_iff (s : State) : RasterLaw s ↔ (s.load.isSome = true → s.raster.jobs = []) ∧ RasterSound s.raster := by
  have hlength : (jobNumbers s.raster.jobs).length = s.raster.jobs.length := List.length_map _
  constructor
  · rintro ⟨hidle, hroom, hasc, habove, hbelow, hmark, hcounter, hrun⟩
    exact ⟨hidle, hlength ▸ hroom, hasc, List.forall_mem_map.mpr habove, List.forall_mem_map.mpr hbelow, hmark, hcounter, hrun⟩
  · rintro ⟨hidle, hroom, hasc, habove, hbelow, hmark, hcounter, hrun⟩
    exact ⟨hidle, hlength ▸ hroom, hasc, List.forall_mem_map.mp habove, List.forall_mem_map.mp hbelow, hmark, hcounter, hrun⟩

theorem rasterSound_reset : RasterSound .reset := ((rasterLaw_iff State.reset).mp rasterLaw_reset).2

/-- R134: the counter moves above the number it gave, and above every number below it. -/
theorem belowCounter_counterAfter {m n : Nat} (hn : n ≤ Config.counter32Max) (h : m ≤ n) : belowCounter m (counterAfter n) := by
  unfold counterAfter
  split
  · exact h.trans hn
  · exact Nat.lt_succ_of_le h

theorem counterAfter_next {m n : Nat} (h : counterAfter n = .next m) : m ≤ Config.counter32Max := by
  unfold counterAfter at h
  split at h
  · cases h
  · cases h
    exact Nat.lt_of_not_le ‹_›

/-- R134: the numbers of the queue after a job joins. -/
theorem withJob_numbers (n : Nat) (kind : JobKind) (s : State) :
    jobNumbers (withJob n kind s).jobs = jobNumbers s.raster.jobs ++ [n] := by
  unfold withJob
  cases s.raster.jobs with
  | nil => rfl
  | cons j rest => exact List.map_append

theorem oldestRuns_append {jobs : List Job} {j : Job} (h : oldestRuns jobs) (hjobs : jobs ≠ []) (hj : isRunning j = false) :
    oldestRuns (jobs ++ [j]) := by
  cases jobs with
  | nil => exact absurd rfl hjobs
  | cons i rest =>
    obtain ⟨hi, hrest⟩ := h
    refine ⟨hi, fun q hq => ?_⟩
    obtain hq | hq := List.mem_append.mp hq
    · exact hrest q hq
    · rw [List.mem_singleton.mp hq]
      exact hj

theorem oldestRuns_withJob (n : Nat) (kind : JobKind) {s : State} (h : oldestRuns s.raster.jobs) :
    oldestRuns (withJob n kind s).jobs := by
  unfold withJob
  dsimp only
  split
  · exact ⟨rfl, fun q hq => (nomatch hq)⟩
  · exact oldestRuns_append h (by simpa using ‹¬ s.raster.jobs.isEmpty = true›) rfl

/-- R138 step 3: among QUEUED jobs the oldest becomes RUNNING. -/
theorem oldestRuns_startOldest (p : Plane Level) {jobs : List Job} (h : ∀ q ∈ jobs, isRunning q = false) :
    oldestRuns (startOldest p jobs) := by
  cases jobs with
  | nil => trivial
  | cons j rest => exact ⟨rfl, fun q hq => h q (List.mem_cons_of_mem j hq)⟩

theorem startOldest_numbers (p : Plane Level) (jobs : List Job) :
    jobNumbers (startOldest p jobs) = jobNumbers jobs := by
  cases jobs <;> rfl

/-- R134: an accepted job. -/
theorem RasterSound.joined {s : State} (h : RasterSound s.raster) {n : Nat} (kind : JobKind)
    (hcounter : s.raster.counter = .next n) (hroom : s.raster.jobs.length < Config.jobCapacity) :
    RasterSound (withJob n kind s) := by
  obtain ⟨-, hasc, habove, hbelow, hmark, hmax, hrun⟩ := h
  have hn := hmax n hcounter
  rw [hcounter] at hbelow hmark
  have hlast {P : Nat → Prop} (hold : ∀ m ∈ jobNumbers s.raster.jobs, P m) (hnew : P n) :
      ∀ m ∈ jobNumbers (withJob n kind s).jobs, P m := by
    rw [withJob_numbers]
    exact List.forall_mem_append.mpr ⟨hold, List.forall_mem_singleton.mpr hnew⟩
  refine ⟨?_, ?_, hlast habove hmark, hlast (fun m hm => belowCounter_counterAfter hn (hbelow m hm).le)
    (belowCounter_counterAfter hn le_rfl), belowCounter_counterAfter hn hmark.le, fun m => counterAfter_next,
    oldestRuns_withJob n kind hrun⟩
  · rw [withJob_numbers, List.length_append, jobNumbers, List.length_map]
    exact hroom
  · rw [withJob_numbers]
    exact List.pairwise_append.mpr
      ⟨hasc, List.pairwise_singleton _ _, fun m hm => List.forall_mem_singleton.mpr (hbelow m hm)⟩

section
variable {u : Raster} {j : Job} {rest : List Job} (h : RasterSound u) (hjobs : u.jobs = j :: rest)
include h hjobs

/-- R136, R137: the oldest job writes a pixel. -/
theorem RasterSound.wrote (written : Nat) (image : Plane Level) :
    RasterSound { u with jobs := { j with progress := .running written image } :: rest } := by
  obtain ⟨hroom, hasc, habove, hbelow, hmark, hmax, hrun⟩ := h
  rw [hjobs] at hroom hasc habove hbelow hrun
  exact ⟨hroom, hasc, habove, hbelow, hmark, hmax, rfl, hrun.2⟩

/-- R138 steps 2 and 3: the oldest job leaves, the mark takes its number, and the next is RUNNING. -/
theorem RasterSound.finished (p : Plane Level) :
    RasterSound { u with jobs := startOldest p rest, mark := j.number } := by
  obtain ⟨hroom, hasc, -, hbelow, -, hmax, hrun⟩ := h
  rw [hjobs] at hroom hasc hbelow hrun
  obtain ⟨habove, hasc⟩ := List.pairwise_cons.mp hasc
  obtain ⟨hmark, hbelow⟩ := List.forall_mem_cons.mp hbelow
  have hnumbers := startOldest_numbers p rest
  exact ⟨hnumbers ▸ (Nat.le_succ _).trans hroom, hnumbers ▸ hasc, hnumbers ▸ habove, hnumbers ▸ hbelow, hmark, hmax,
    oldestRuns_startOldest p hrun.2⟩

end

/-- R116, R130: whatever a step does to the two blocks keeps the law. -/
theorem UnitsStep.rasterLaw {s t : State} (h : UnitsStep s t) (hlaw : RasterLaw s) : RasterLaw t := by
  obtain ⟨hidle, hsound⟩ := (rasterLaw_iff s).mp hlaw
  refine (rasterLaw_iff t).mpr ?_
  cases h with
  | kept h => rw [h.load, h.raster]; exact ⟨hidle, hsound⟩
  | reset _ hraster => rw [hraster]; exact ⟨fun _ => rfl, rasterSound_reset⟩
  | opened _ _ hjobs _ hraster => rw [hraster]; exact ⟨fun _ => hjobs, hsound⟩
  | loaded l _ _ hopen _ hraster => rw [hraster]; exact ⟨fun _ => hidle (by rw [hopen]; rfl), hsound⟩
  | closed hload hraster => rw [hload, hraster]; exact ⟨fun h => (nomatch h), hsound⟩
  | joined n kind hclosed hcounter hroom hload hraster =>
    rw [hload, hclosed, hraster]
    exact ⟨fun h => (nomatch h), hsound.joined kind hcounter hroom⟩
  | wrote j rest written image hjobs hload hraster =>
    rw [hload, hraster]
    exact ⟨fun h => (nomatch hjobs.symm.trans (hidle h)), hsound.wrote hjobs written image⟩
  | finished j rest p hjobs hload hraster =>
    rw [hload, hraster]
    exact ⟨fun h => (nomatch hjobs.symm.trans (hidle h)), hsound.finished hjobs p⟩

/-- Settles O57: by what a step can do to the two blocks. -/
theorem stepKeepsTheRasterLaw : Obligations.StepKeepsTheRasterLaw := by
  intro s t hraster hload hstep
  obtain rfl | ⟨c, rest, -, hexec⟩ := step_cases hstep
  · exact ⟨hraster, hload⟩
  · have hunits := holdsAfter_next (exec_unitsStep c { s with pending := rest }) hexec
    exact ⟨hunits.rasterLaw hraster, hunits.loadLaw hload⟩

end Sys2Proof.Machine
end

section
/-! The work of the raster jobs (R136 to R138): the final image of a job, the pixel the RUNNING job writes next, and the completion. -/

namespace Sys2Proof.Machine

/-! ### What a job holds (R130, R133) -/

/-- R133: the rectangles of a Copy are of one size. -/
def kindSound : JobKind → Prop
  | .fill _ _ => True
  | .copy source dest => source.val.width = dest.val.width ∧ source.val.height = dest.val.height

/-- R136, R137: a RUNNING job's written count lies within its area, and its image fits its destination. -/
def progressSound (target : Rect) : JobProgress → Prop
  | .queued => True
  | .running written image => written ≤ rectArea target ∧ planeWf target.width target.height image = true

theorem jobSound_iff (j : Job) : jobSound j ↔ kindSound j.kind ∧ progressSound (jobTarget j.kind).val j.progress := by
  obtain ⟨number, kind, progress⟩ := j
  cases kind <;> cases progress <;> exact Iff.rfl

/-- R136, R137: the final image of a job has the size of its destination. -/
theorem planeWf_jobImage {p : Plane Level} {kind : JobKind} (hform : planeWf 800 600 p = true) (hkind : kindSound kind) :
    planeWf (jobTarget kind).val.width (jobTarget kind).val.height (jobImage p kind) = true := by
  cases kind with
  | fill rect level => exact planeWf_planeOf _ _ level
  | copy source dest =>
    obtain ⟨hwidth, hheight⟩ := hkind
    obtain ⟨-, -, hc, hr⟩ := region_on_panel source
    show planeWf dest.val.width dest.val.height (planeCrop source.val p) = true
    rw [← hwidth, ← hheight]
    exact planeWf_planeCrop _ _ _ _ hform hc hr

/-- R134, R138: a job that becomes RUNNING. -/
theorem jobSound_startJob {p : Plane Level} {j : Job} (hform : planeWf 800 600 p = true) (hkind : kindSound j.kind) :
    jobSound (startJob p j) :=
  (jobSound_iff _).mpr ⟨hkind, Nat.zero_le _, planeWf_jobImage hform hkind⟩

/-! ### The next pixel (R136, R137) -/

section
variable {target : Region} {k : Nat} {image p : Plane Level}
  (himage : planeWf target.val.width target.val.height image = true) (hk : k < rectArea target.val)
include himage hk

/-- R136, R137: the final image gives the next pixel a level, and that level is written there. -/
theorem writeJobPixel_eq (p : Plane Level) : ∃ level, planeAt image (k % target.val.width) (k / target.val.width) = some level ∧
    writeJobPixel target.val k image p =
      planeSet (rowMajorPixel target.val k).1 (rowMajorPixel target.val k).2 level p := by
  obtain ⟨hwidth, -⟩ := region_on_panel target
  have hsome := (planeAt_isSome _ _ (k % target.val.width) (k / target.val.width) _ himage).mpr
    ⟨Nat.mod_lt k hwidth, Nat.div_lt_of_lt_mul hk⟩
  obtain ⟨level, hlevel⟩ := Option.isSome_iff_exists.mp hsome
  exact ⟨level, hlevel, by rw [writeJobPixel, hlevel]⟩

theorem planeWf_writeJobPixel (hform : planeWf 800 600 p = true) :
    planeWf 800 600 (writeJobPixel target.val k image p) = true := by
  obtain ⟨level, -, hwrite⟩ := writeJobPixel_eq himage hk p
  obtain ⟨hx, hy⟩ := rowMajorPixel_on_panel target hk
  rw [hwrite]
  exact planeWf_planeSet _ _ _ _ _ _ hform hx hy

/-- R136, R137: that pixel takes the level of the final image, and no other pixel changes. -/
theorem planeAt_writeJobPixel (hform : planeWf 800 600 p = true) (x y : Nat) :
    planeAt (writeJobPixel target.val k image p) x y = if (x, y) = rowMajorPixel target.val k then
      planeAt image (k % target.val.width) (k / target.val.width) else planeAt p x y := by
  obtain ⟨level, hlevel, hwrite⟩ := writeJobPixel_eq himage hk p
  obtain ⟨hx, hy⟩ := rowMajorPixel_on_panel target hk
  rw [hwrite, planeAt_planeSet _ _ _ _ _ _ _ _ hform hx hy, hlevel]
  exact if_congr (@Prod.ext_iff _ _ (x, y) _).symm rfl rfl

end

section
variable {s : State} {j : Job} {rest : List Job} {k : Nat} {image : Plane Level} (hjobs : s.raster.jobs = j :: rest)
  (hrun : j.progress = .running k image)
include hjobs hrun

theorem exec_jobWritesPixel (hk : k < rectArea (jobTarget j.kind).val) : exec .jobWritesPixel s = .next { s with
    pendingPlane := writeJobPixel (jobTarget j.kind).val k image s.pendingPlane
    raster := { s.raster with jobs := { j with progress := .running (k + 1) image } :: rest } } := by
  simp only [exec, execJobWritesPixel, hjobs, hrun, hk, if_true]

theorem exec_jobCompletion : exec .jobCompletion s =
    .next (evaluate (finishWork (.job j.number) .ok (leBytes 4 j.number) (finishJob j rest image s))) := by
  simp only [exec, execJobCompletion, hjobs, hrun]

theorem PlanesLaw.running_image (h : PlanesLaw s) :
    planeWf (jobTarget j.kind).val.width (jobTarget j.kind).val.height image = true :=
  h.image_form (by rw [hjobs]; exact List.mem_cons_self) hrun

end

/-- Settles O48: by what a write does to each pixel of Pending, and what a crop holds. -/
theorem jobsWriteInRowMajorOrder : Obligations.JobsWriteInRowMajorOrder := by
  refine ⟨fun s j rest k image hplanes hjobs hrun hk => ?_, fun p source i j _ hi hj => ?_⟩
  · have hpixel := planeAt_writeJobPixel (hplanes.running_image hjobs hrun) hk hplanes.1
    exact ⟨_, exec_jobWritesPixel hjobs hrun hk, rfl, (hpixel _ _).trans (if_pos rfl),
      fun x y hother => (hpixel x y).trans (if_neg hother)⟩
  · rw [planeAt_planeCrop, if_pos ⟨hi, hj⟩]

/-! ### The completion (R138) -/

/-- Settles O49: the image pasted over the destination; the oldest remaining job starts from that plane. -/
theorem jobCompletionIsOneEvent : Obligations.JobCompletionIsOneEvent := by
  intro s j rest k image hplanes hjobs hrun
  obtain ⟨-, -, hc, hr⟩ := region_on_panel (jobTarget j.kind)
  have hpixel (x y : Nat) := planeAt_planePaste 800 600 (jobTarget j.kind).val image s.pendingPlane x y hplanes.1
    (hplanes.running_image hjobs hrun) hc hr
  refine ⟨planePaste (jobTarget j.kind).val image s.pendingPlane, startOldest _ rest, exec_jobCompletion hjobs hrun,
    fun x y hin => (hpixel x y).trans (if_pos hin), fun x y hout => (hpixel x y).trans (if_neg (Bool.eq_false_iff.mp hout)),
    fun hlast => ?_, fun q later hnext => ?_⟩
  · rw [hlast]; rfl
  · rw [hnext]; rfl

end Sys2Proof.Machine
end

section
/-! Fill and Copy (R132 to R134): the fields of each, the two checks on the state, and the acceptance of a job. -/

namespace Sys2Proof.Machine

/-! ### The fields of a Fill (R132) -/

theorem levelOf_eq_none {b : Byte} (h : 15 < b.toNat) : levelOf b = none := dif_neg (Nat.not_lt.mpr h)

theorem fillFields_of_length {p : List Byte} (h : p.length ≠ 9) : fillFields p = .error .badLength := if_pos h

theorem fillFields_of_badLevel (rect : Rect) {b : Byte} (h : 15 < b.toNat) :
    fillFields (rectBytes rect ++ [b]) = .error .badField := by
  obtain ⟨hlength, hbyte⟩ := loadOpenPayload_byte rect b
  simp only [fillFields, hlength, ne_eq, not_true, if_false, hbyte, levelOf_eq_none h]

theorem fillFields_of_badRect {rect : Rect} {b : Byte} (hcol : rect.col < 65536) (hrow : rect.row < 65536)
    (hwidth : rect.width < 65536) (hheight : rect.height < 65536) (hb : b.toNat ≤ 15) (h : rectValid rect = false) :
    fillFields (rectBytes rect ++ [b]) = .error .badRect := by
  obtain ⟨hlength, hbyte⟩ := loadOpenPayload_byte rect b
  have hlevel : levelOf b = some ⟨b.toNat, Nat.lt_succ_of_le hb⟩ := dif_pos (Nat.lt_succ_of_le hb)
  have hrect : rectField (rectBytes rect ++ [b]) 0 = rect := rectField_append [] [b] rect hcol hrow hwidth hheight
  simp only [fillFields, hlength, ne_eq, not_true, if_false, hbyte, hlevel, hrect, regionOf_eq_none h]

theorem fillFields_of_region (rect : Region) (level : Level) :
    fillFields (rectBytes rect.val ++ [byteOf level.val]) = .ok (rect, level) := by
  obtain ⟨hlength, hbyte⟩ := loadOpenPayload_byte rect.val (byteOf level.val)
  have hrect : rectField (rectBytes rect.val ++ [byteOf level.val]) 0 = rect.val :=
    rectField_region [] [byteOf level.val] rect
  simp only [fillFields, hlength, ne_eq, not_true, if_false, hbyte, levelOf_byteOf, hrect, regionOf_val]

/-! ### The fields of a Copy (R133) -/

theorem copyFields_of_length {p : List Byte} (h : p.length ≠ 12) : copyFields p = .error .badLength := if_pos h

section
variable {source : Rect} {col row : Nat} (hscol : source.col < 65536) (hsrow : source.row < 65536)
  (hwidth : source.width < 65536) (hheight : source.height < 65536) (hcol : col < 65536) (hrow : row < 65536)
include hscol hsrow hwidth hheight hcol hrow

/-- A Copy's payload carries its source rectangle and its destination column and row. -/
theorem copyPayload_fields (p : List Byte) (hp : p = rectBytes source ++ leBytes 2 col ++ leBytes 2 row) :
    p.length = 12 ∧ rectField p 0 = source ∧ fieldNat p 8 2 = col ∧ fieldNat p 10 2 = row := by
  subst hp
  refine ⟨by simp, ?_, ?_, ?_⟩
  · rw [List.append_assoc]
    exact rectField_append [] _ source hscol hsrow hwidth hheight
  · simpa using fieldNat_append (rectBytes source) (leBytes 2 row) 2 col hcol
  · simpa using fieldNat_append (rectBytes source ++ leBytes 2 col) [] 2 row hrow

/-- R133: the source or the destination is no valid rectangle. -/
theorem copyFields_of_badRect
    (h : rectValid source = false ∨ rectValid { source with col := col, row := row } = false) :
    copyFields (rectBytes source ++ leBytes 2 col ++ leBytes 2 row) = .error .badRect := by
  obtain ⟨hlength, hsource, hdcol, hdrow⟩ := copyPayload_fields hscol hsrow hwidth hheight hcol hrow _ rfl
  simp only [copyFields, hlength, hsource, hdcol, hdrow, ne_eq, not_true, if_false]
  cases hvalid : rectValid source with
  | false => rw [regionOf_eq_none hvalid]
  | true =>
    have hdest := h.resolve_left (ne_false_of_eq_true hvalid)
    rw [regionOf, dif_pos hvalid]
    simp only [regionOf_eq_none hdest]

end

/-- A region's numbers fit their fields. -/
theorem region_fields_fit (r : Region) :
    r.val.col < 65536 ∧ r.val.row < 65536 ∧ r.val.width < 65536 ∧ r.val.height < 65536 := by
  obtain ⟨hw, hh, hc, hr⟩ := region_on_panel r
  omega

theorem copyFields_of_regions {source dest : Region} (hwidth : dest.val.width = source.val.width)
    (hheight : dest.val.height = source.val.height) :
    copyFields (rectBytes source.val ++ leBytes 2 dest.val.col ++ leBytes 2 dest.val.row) = .ok (source, dest) := by
  obtain ⟨h1, h2, h3, h4⟩ := region_fields_fit source
  obtain ⟨h5, h6, -⟩ := region_fields_fit dest
  obtain ⟨hlength, hsource, hcol, hrow⟩ := copyPayload_fields h1 h2 h3 h4 h5 h6 _ rfl
  have hdest : { source.val with col := dest.val.col, row := dest.val.row } = dest.val :=
    congrArg₂ (Rect.mk dest.val.col dest.val.row) hwidth.symm hheight.symm
  simp only [copyFields, hlength, hsource, hcol, hrow, ne_eq, not_true, if_false, regionOf_val, hdest]

/-! ### The acceptance (R134) -/

/-- R134: an accepted job at the tail, RUNNING when it is the only one. -/
theorem withJob_eq (n : Nat) (kind : JobKind) (s : State) : withJob n kind s = {
    mark := s.raster.mark
    counter := if 4294967295 ≤ n then .exhausted else .next (n + 1)
    jobs := s.raster.jobs ++ [{
      number := n
      kind := kind
      progress := if s.raster.jobs = [] then .running 0 (jobImage s.pendingPlane kind) else .queued }] } := by
  unfold withJob
  cases s.raster.jobs <;> rfl

section
variable {s : State} {r : Request} (kind : JobKind)

theorem takeJob_of_open (h : s.load ≠ none) : takeJob r kind s = answerEntry r .loadOpen [] .nothing s :=
  if_pos (Option.isSome_iff_ne_none.mpr h)

theorem takeJob_of_exhausted (h : s.load = none) (hcounter : s.raster.counter = .exhausted) :
    takeJob r kind s = answerEntry r .wrongState [] .nothing s := by
  simp only [takeJob, h, hcounter, Option.isSome_none, Bool.false_eq_true, if_false]

theorem takeJob_of_next (h : s.load = none) {n : Nat} (hcounter : s.raster.counter = .next n) :
    takeJob r kind s = deferEntry (.job n) { s with raster := withJob n kind s } := by
  simp only [takeJob, h, hcounter, Option.isSome_none, Bool.false_eq_true, if_false]

theorem exec_fill (h : takes s .fill r) : exec .fill s = .next (takeFill r s) :=
  congrArg Host.Outcome.next (dispatch_of_takes takeFill h)

theorem exec_copy (h : takes s .copy r) : exec .copy s = .next (takeCopy r s) :=
  congrArg Host.Outcome.next (dispatch_of_takes takeCopy h)

theorem takeFill_of_error {st : Status} (h : fillFields r.payload = .error st) :
    takeFill r s = answerEntry r st [] .nothing s := by rw [takeFill, h]

theorem takeCopy_of_error {st : Status} (h : copyFields r.payload = .error st) :
    takeCopy r s = answerEntry r st [] .nothing s := by rw [takeCopy, h]

theorem takeFill_of_ok {rect : Region} {level : Level} (h : fillFields r.payload = .ok (rect, level)) :
    takeFill r s = takeJob r (.fill rect level) s := by rw [takeFill, h]

theorem takeCopy_of_ok {source dest : Region} (h : copyFields r.payload = .ok (source, dest)) :
    takeCopy r s = takeJob r (.copy source dest) s := by rw [takeCopy, h]

end

/-- Settles O47: the checks by the payload, then the session and the counter a job finds. -/
theorem jobsAreAccepted : Obligations.JobsAreAccepted := by
  refine ⟨fun s r rect hcol hrow hwidth hheight => ⟨fun htakes => ?_, fun htakes => ?_⟩,
    fun s r rect source level => ⟨?_, ?_⟩⟩
  · rw [exec_fill htakes]
    refine ⟨fun hlength => by rw [takeFill_of_error (fillFields_of_length hlength)], fun b hp => ⟨fun hb => ?_, fun hb hbad => ?_⟩⟩
    · rw [takeFill_of_error (by rw [hp, fillFields_of_badLevel rect hb])]
    · rw [takeFill_of_error (by rw [hp, fillFields_of_badRect hcol hrow hwidth hheight hb hbad])]
  · rw [exec_copy htakes]
    refine ⟨fun hlength => by rw [takeCopy_of_error (copyFields_of_length hlength)], fun col row hdcol hdrow hp hbad => ?_⟩
    rw [takeCopy_of_error (by rw [hp, copyFields_of_badRect hcol hrow hwidth hheight hdcol hdrow hbad])]
  · rintro ⟨htakes, hp⟩
    rw [exec_fill htakes, takeFill_of_ok (by rw [hp, fillFields_of_region])]
    exact ⟨fun hload => by rw [takeJob_of_open _ hload], fun hload hcounter => by rw [takeJob_of_exhausted _ hload hcounter],
      fun n hload hcounter => by rw [takeJob_of_next _ hload hcounter, withJob_eq]; rfl⟩
  · rintro ⟨htakes, hwidth, hheight, hp⟩
    rw [exec_copy htakes, takeCopy_of_ok (by rw [hp, copyFields_of_regions hwidth hheight])]
    exact ⟨fun hload => by rw [takeJob_of_open _ hload], fun hload hcounter => by rw [takeJob_of_exhausted _ hload hcounter],
      fun n hload hcounter => by rw [takeJob_of_next _ hload hcounter, withJob_eq]; rfl⟩

end Sys2Proof.Machine
end

section
/-! The form of the planes and the images of the jobs (chapter 1; R130, R136, R137) under the operations of the Drive Table, the rails
and the evaluations. Unlike agreement (R9), the form is kept whatever the slots cover. -/

namespace Sys2Proof.Machine

/-! ### The law and what it speaks of -/

/-- The law after, if it held before. -/
def KeepsPlanes (s t : State) : Prop := PlanesLaw s → PlanesLaw t

/-- What the law of the planes speaks of: the three planes and the jobs. -/
def planesView (s : State) : Plane Level × Plane Pixel × Plane Pixel × List Job :=
  (s.pendingPlane, s.target, s.shown, s.raster.jobs)

section
variable {s t u : State}

theorem KeepsPlanes.refl (s : State) : KeepsPlanes s s := id

theorem KeepsPlanes.trans (h : KeepsPlanes s t) (k : KeepsPlanes t u) : KeepsPlanes s u := k ∘ h

theorem KeepsPlanes.foldl {ι : Type} {f : State → ι → State} (h : ∀ s i, KeepsPlanes s (f s i)) (l : List ι) (s : State) :
    KeepsPlanes s (l.foldl f s) := by
  induction l generalizing s with
  | nil => exact .refl s
  | cons i l ih => exact (h s i).trans (ih (f s i))

theorem KeepsPlanes.of_view (h : planesView t = planesView s) : KeepsPlanes s t := by
  simp only [planesView, Prod.mk.injEq] at h
  obtain ⟨hpending, htarget, hshown, hjobs⟩ := h
  unfold KeepsPlanes PlanesLaw
  rw [hpending, htarget, hshown, hjobs]
  exact id

/-- What leaves the planes, the slots and the Raster Unit. -/
theorem KeepsPlanes.of_kept (hview : driveView t = driveView s) (hunits : UnitsKept s t) : KeepsPlanes s t := by
  simp only [driveView, DriveView.mk.injEq] at hview
  obtain ⟨hpending, htarget, hshown, -⟩ := hview
  exact .of_view (by simp only [planesView, hpending, htarget, hshown, hunits.raster])

theorem KeepsPlanes.of_linkFrame (h : linkFrame s t) : KeepsPlanes s t := by
  unfold linkFrame at h
  rw [h]
  exact .of_view rfl

theorem ImageForm.congr (k : ImageForm s) (h : driveView t = driveView s) : ImageForm t := by
  simp only [driveView, DriveView.mk.injEq] at h
  obtain ⟨-, htarget, hshown, -⟩ := h
  exact ⟨htarget ▸ k.target, hshown ▸ k.shown⟩

/-- An operation of the Drive Table leaves Pending and the jobs, so Target and Shown decide. -/
theorem KeepsPlanes.of_driveFrame (hframe : driveFrame s t)
    (h : planeWf 800 600 s.pendingPlane = true → ImageForm s → ImageForm t) : KeepsPlanes s t := by
  intro hlaw
  have himage := h hlaw.1 hlaw.imageForm
  obtain ⟨hpending, -, -, hjobs⟩ := hlaw
  have hpendingPlane : t.pendingPlane = s.pendingPlane := by rw [hframe]
  have hraster : t.raster = s.raster := by rw [hframe]
  exact ⟨hpendingPlane ▸ hpending, himage.target, himage.shown, hraster ▸ hjobs⟩

end

/-! ### Starts -/

/-- R43, R44. -/
theorem arm_keepsPlanes (i : Fin 8) (e : Entry) (d : StartData) (s : State) : KeepsPlanes s (arm i e d s) := by
  refine .of_driveFrame (arm_driveFrame i e d s) fun hpending hform => .congr ?_ (driveView_arm i e d s)
  obtain ⟨htarget, hshown⟩ := latchTarget_imageForm e.rect d.record.twoLevel hpending hform
  exact ⟨htarget, hshown⟩

theorem startEntry_keepsPlanes (older younger : List Entry) (x : Entry) (s : State) :
    KeepsPlanes s (startEntry older x younger s) := by
  have hqueue : KeepsPlanes s { s with queue := older ++ younger } := .of_view rfl
  unfold startEntry
  split
  · exact .refl s
  · split
    · exact hqueue.trans (arm_keepsPlanes _ x _ _)
    · exact hqueue.trans (.of_view rfl)

/-- R27. -/
theorem evaluateStarts_keepsPlanes (s : State) : KeepsPlanes s (evaluateStarts s) :=
  evaluateUpTo_induction (P := KeepsPlanes s)
    (fun t older younger x _ _ h => h.trans (startEntry_keepsPlanes older younger x t)) _ s (.refl s)

/-! ### The ends of slots -/

/-- R52. -/
theorem abortSlot_keepsPlanes (result : EndResult) (s : State) (i : Fin 8) : KeepsPlanes s (abortSlot result s i) :=
  .of_driveFrame (abortSlot_driveFrame result s i) fun _ h => (clearSlot_imageForm i h).congr (driveView_abortSlot result s i)

theorem abandonSlot_keepsPlanes (s : State) (i : Fin 8) : KeepsPlanes s (abandonSlot s i) :=
  .of_driveFrame (abandonSlot_driveFrame s i) fun _ h => (clearSlot_imageForm i h).congr (driveView_abandonSlot s i)

theorem abortAll_keepsPlanes (result : EndResult) (s : State) : KeepsPlanes s (abortAll result s) :=
  .foldl (abortSlot_keepsPlanes result) slotNumbers s

theorem abandonAll_keepsPlanes (s : State) : KeepsPlanes s (abandonAll s) :=
  .foldl abandonSlot_keepsPlanes slotNumbers s

theorem abortIfArmed_keepsPlanes (s : State) (i : Fin 8) : KeepsPlanes s (abortIfArmed s i) := by
  unfold abortIfArmed
  split
  case h_2 => exact abortSlot_keepsPlanes _ s i
  all_goals exact .refl s

/-- R51. -/
theorem completeSlot_keepsPlanes (i : Fin 8) (u : Update) (s : State) : KeepsPlanes s (completeSlot i u s) := by
  refine .of_driveFrame (completeSlot_driveFrame i u s) fun _ h => ?_
  have hview : driveView (completeSlot i u s) = driveView (setSlot i .free (showTarget u.rect.val s)) := by simp [completeSlot]
  have hcompleted : ImageForm (setSlot i .free (showTarget u.rect.val s)) :=
    ⟨h.target, planeWf_paste_crop _ _ _ h.shown h.target⟩
  exact hcompleted.congr hview

/-- R47. -/
theorem advanceSlot_keepsPlanes (s : State) (i : Fin 8) : KeepsPlanes s (advanceSlot s i) := by
  unfold advanceSlot
  split
  · exact .refl s
  · exact .of_view rfl
  · split
    · exact completeSlot_keepsPlanes i _ s
    · exact .of_view rfl

/-! ### Boundaries, the rails and halts -/

theorem haltedIfIdle_keepsPlanes (s : State) : KeepsPlanes s (haltedIfIdle s) :=
  .of_kept (driveView_haltedIfIdle s) (.of_railsFrame (haltedIfIdle_railsFrame s))

/-- R47, R55. -/
theorem advanceSlots_keepsPlanes (s : State) : KeepsPlanes s (advanceSlots s) := by
  unfold advanceSlots
  split
  · exact .foldl advanceSlot_keepsPlanes slotNumbers s
  · exact (abortAll_keepsPlanes _ s).trans (haltedIfIdle_keepsPlanes _)
  · exact .refl s

/-- R108. -/
theorem deliverBoundary_keepsPlanes (s : State) : KeepsPlanes s (deliverBoundary s) := by
  have hscheduled (u : State) : KeepsPlanes u (scheduleBoundary u) := .of_view rfl
  exact (advanceSlots_keepsPlanes s).trans ((evaluateStarts_keepsPlanes _).trans ((hscheduled _).trans
    (.of_kept (driveView_judgeDemandEnd _) (.of_railsFrame (judgeDemandEnd_railsFrame _)))))

/-- R98. -/
theorem enterOn_keepsPlanes (s : State) : KeepsPlanes s (enterOn s) := by
  have hon : KeepsPlanes s (railsOn s) := .of_view rfl
  unfold enterOn
  split
  · exact hon.trans (deliverBoundary_keepsPlanes _)
  · exact hon.trans (.of_kept (driveView_demandEndsInOn _) (.of_railsFrame (demandEndsInOn_railsFrame _)))

/-- R96. -/
theorem enterRising_keepsPlanes (s : State) : KeepsPlanes s (enterRising s) := by
  have hrising : KeepsPlanes s (railsRising s) := .of_view rfl
  unfold enterRising
  split
  · exact hrising.trans (enterOn_keepsPlanes _)
  · exact hrising

theorem demandAppears_keepsPlanes (s : State) : KeepsPlanes s (demandAppears s) := by
  unfold demandAppears
  split
  case h_1 => exact enterRising_keepsPlanes s
  case h_4 => exact enterOn_keepsPlanes s
  all_goals exact .refl s

/-- R94: an evaluation away from a boundary. -/
theorem KeepsPlanes.evaluated {s t : State} (h : KeepsPlanes s t) : KeepsPlanes s (evaluate t) := by
  have hstarts := h.trans (evaluateStarts_keepsPlanes t)
  unfold evaluate
  split
  · exact hstarts.trans (demandAppears_keepsPlanes _)
  · exact hstarts

/-- R103. -/
theorem enterFault_keepsPlanes (cause : FaultCause) (s : State) : KeepsPlanes s (enterFault cause s) := by
  have hdown : KeepsPlanes s (offerNotice (.railFault cause s.rails.state)
      { s with rails := { Rails.reset with state := .fault, faultCause := some cause }, frameTimer := .stopped }) :=
    .of_view rfl
  exact hdown.trans ((abortAll_keepsPlanes _ _).trans (haltedIfIdle_keepsPlanes _))

/-- R97, R101. -/
theorem losePower_keepsPlanes (s : State) : KeepsPlanes s (losePower s) := by
  unfold losePower loseSettling
  split
  case h_2 =>
    split
    · split
      · exact enterFault_keepsPlanes _ s
      · exact .of_view rfl
    · exact .refl s
  case h_3 | h_4 => exact enterFault_keepsPlanes _ s
  all_goals exact .refl s

/-- R102. -/
theorem fallEnds_keepsPlanes (s : State) : KeepsPlanes s (fallEnds s) := by
  have hoff : KeepsPlanes s { s with rails := { s.rails with state := .off, fallTimer := none } } := .of_view rfl
  unfold fallEnds
  dsimp only
  split
  · exact hoff.trans (enterRising_keepsPlanes _)
  · exact hoff

/-- R54, R57: the flush and the fast-fall request of a Halt. -/
theorem fastFall_flushed_keepsPlanes (flush : Bool) (s : State) : KeepsPlanes s (fastFallRequest (flushIfAsked flush s)) := by
  have hflushed := railsFrame_of_driveFrame (flushIfAsked_frame flush s).1
  exact .of_kept (by rw [driveView_fastFallRequest, driveView_flushIfAsked])
    (.of_railsFrame (railsFrame_trans hflushed (fastFallRequest_railsFrame _)))

theorem abortUnlessOn_keepsPlanes (s : State) : KeepsPlanes s (abortUnlessOn s) := by
  unfold abortUnlessOn
  split
  · exact .refl s
  · exact .foldl abortIfArmed_keepsPlanes slotNumbers s

theorem beginHalt_keepsPlanes (flush : Bool) (s : State) : KeepsPlanes s (beginHalt flush s) := by
  have hdeferred : KeepsPlanes s (deferEntry .halt { s with halt := .halting }) := .of_view rfl
  exact hdeferred.trans ((fastFall_flushed_keepsPlanes flush _).trans
    ((abortUnlessOn_keepsPlanes _).trans (haltedIfIdle_keepsPlanes _)))

/-- R13, R81: a Restart leaves no job. -/
theorem restartTakesEffect_keepsPlanes (s : State) : KeepsPlanes s (restartTakesEffect s) := by
  intro hlaw
  have himage := (abandonAll_keepsPlanes s hlaw).imageForm.congr (driveView_restartTakesEffect s)
  have hpendingPlane : (restartTakesEffect s).pendingPlane = s.pendingPlane := pendingPlane_restart rfl
  have hraster : (restartTakesEffect s).raster = .reset := by rw [restartTakesEffect]
  obtain ⟨hpending, -⟩ := hlaw
  refine ⟨?_, himage.target, himage.shown, ?_⟩
  · rw [hpendingPlane]
    exact hpending
  · rw [hraster]
    exact fun j hj => (nomatch hj)

end Sys2Proof.Machine
end

section
/-! Every command keeps the planes in form and the jobs sound: those that write neither by what they leave, those that end slots or
evaluate starts by the operations they use, and those that write Pending or a job by what they write. -/

namespace Sys2Proof.Machine

/-! ### Requests -/

section
variable (r : Request) (s : State)

theorem submitUpdate_keepsPlanes : KeepsPlanes s (submitUpdate r s) := by
  unfold submitUpdate
  split
  · exact .of_view rfl
  · split
    · exact .of_view rfl
    · exact .evaluated (.of_view rfl)

theorem cancelUpdate_keepsPlanes : KeepsPlanes s (cancelUpdate r s) := by
  unfold cancelUpdate
  split
  · exact .of_view rfl
  · split
    · exact .evaluated (.of_view rfl)
    · split <;> exact .of_view rfl

/-- R54, R57. -/
theorem takeHalt_keepsPlanes : KeepsPlanes s (takeHalt r s) := by
  unfold takeHalt haltAgain
  split
  · exact .of_view rfl
  · split
    case h_3 => exact (fastFall_flushed_keepsPlanes _ s).trans (.of_view rfl)
    all_goals exact beginHalt_keepsPlanes _ s

/-- R58. -/
theorem takeResume_keepsPlanes : KeepsPlanes s (takeResume r s) := by
  unfold takeResume
  split
  · exact .of_view rfl
  · split
    case h_3 => exact .evaluated (.of_view rfl)
    all_goals exact .of_view rfl

/-- R84, R85. -/
theorem setReading_keepsPlanes (value : Int) : KeepsPlanes s (setReading value s) := by
  unfold setReading
  dsimp only
  split
  · exact .of_view rfl
  · exact .evaluated (.of_view rfl)

theorem reportTemperature_keepsPlanes : KeepsPlanes s (reportTemperature r s) := by
  have hanswered : KeepsPlanes s (answerEntry r .ok [] .nothing s) := .of_view rfl
  unfold reportTemperature
  split
  · exact .of_view rfl
  · split
    · exact .of_view rfl
    · exact hanswered.trans (setReading_keepsPlanes _ _)

/-- R177. -/
theorem parameterActs_keepsPlanes (q : ParamId) (before : State) : KeepsPlanes s (parameterActs q before s) := by
  unfold parameterActs limitChanged
  split
  · rw [sourceChanged_eq]
    exact .of_view rfl
  · split
    · exact .refl s
    · split
      · exact .of_view rfl
      · split
        · exact (KeepsPlanes.refl s).evaluated
        · exact .refl s
  · exact .refl s

theorem setParameter_keepsPlanes : KeepsPlanes s (setParameter r s) := by
  unfold setParameter changeParameter
  split
  · exact .of_view rfl
  · split
    · exact .of_view rfl
    · refine .trans ?_ (parameterActs_keepsPlanes _ _ _)
      exact .of_view rfl

theorem clearFault_keepsPlanes : KeepsPlanes s (clearFault r s) := by
  unfold clearFault
  split
  · exact .of_view rfl
  · split
    · exact .evaluated (.of_view rfl)
    · exact .of_view rfl

theorem takeLoadOpen_keepsPlanes : KeepsPlanes s (takeLoadOpen r s) := by
  unfold takeLoadOpen
  split
  · exact .of_view rfl
  · split
    · exact .of_view rfl
    · exact .evaluated (.of_view rfl)

theorem takeLoadClose_keepsPlanes : KeepsPlanes s (takeLoadClose r s) := by
  unfold takeLoadClose
  split
  · exact .of_view rfl
  · split
    · exact .of_view rfl
    · exact .evaluated (.of_view rfl)

end

/-! ### Load Data -/

/-- R120: one pixel, written inside the window or dropped. -/
theorem planeWf_placePixel (at_ : LoadSession × Plane Level) (level : Level) (h : planeWf 800 600 at_.2 = true) :
    planeWf 800 600 (placePixel at_ level).2 = true := by
  unfold placePixel
  split
  · exact h
  · rename_i hroom
    obtain ⟨hx, hy⟩ := cursorPixel_on_panel at_.1.window at_.1.order (Nat.not_le.mp (mt (windowFull_iff at_.1).mpr hroom))
    exact planeWf_planeSet _ _ _ _ _ _ h hx hy

theorem planeWf_placePixels (levels : List Level) (l : LoadSession) {p : Plane Level} (h : planeWf 800 600 p = true) :
    planeWf 800 600 (placePixels levels l p).2 = true :=
  List.foldlRecOn levels placePixel (motive := fun at_ => planeWf 800 600 at_.2 = true) h
    fun at_ hat level _ => planeWf_placePixel at_ level hat

theorem takeLoadData_keepsPlanes (r : Request) (s : State) : KeepsPlanes s (takeLoadData r s) := by
  unfold takeLoadData
  split
  · exact .of_view rfl
  · split
    · exact .of_view rfl
    · rintro ⟨hpending, hrest⟩
      exact ⟨planeWf_placePixels _ _ hpending, hrest⟩

/-! ### Jobs -/

/-- R134: the jobs after an acceptance. -/
theorem jobSound_withJob {s : State} (h : PlanesLaw s) (n : Nat) {kind : JobKind} (hkind : kindSound kind) :
    ∀ j ∈ (withJob n kind s).jobs, jobSound j := by
  obtain ⟨hpending, -, -, hjobs⟩ := h
  unfold withJob
  dsimp only
  split
  · exact List.forall_mem_singleton.mpr (jobSound_startJob hpending hkind)
  · exact List.forall_mem_append.mpr ⟨hjobs, List.forall_mem_singleton.mpr ((jobSound_iff _).mpr ⟨hkind, trivial⟩)⟩

theorem takeJob_keepsPlanes (r : Request) {kind : JobKind} (s : State) (hkind : kindSound kind) :
    KeepsPlanes s (takeJob r kind s) := by
  unfold takeJob
  split
  · exact .of_view rfl
  · split
    · exact .of_view rfl
    · rename_i n _
      intro hlaw
      have hjobs := jobSound_withJob hlaw n hkind
      obtain ⟨hpending, htarget, hshown, -⟩ := hlaw
      exact ⟨hpending, htarget, hshown, hjobs⟩

theorem takeFill_keepsPlanes (r : Request) (s : State) : KeepsPlanes s (takeFill r s) := by
  unfold takeFill
  split
  · exact .of_view rfl
  · exact takeJob_keepsPlanes r s trivial

/-- R133: the destination of a Copy takes the source's width and height. -/
theorem kindSound_of_copyFields {p : List Byte} {source dest : Region} (h : copyFields p = .ok (source, dest)) :
    kindSound (.copy source dest) := by
  unfold copyFields at h
  split at h
  · cases h
  · split at h
    · cases h
    · split at h
      · cases h
      · rename_i hdest
        cases h
        unfold regionOf at hdest
        split at hdest
        · cases hdest
          exact ⟨rfl, rfl⟩
        · cases hdest

theorem takeCopy_keepsPlanes (r : Request) (s : State) : KeepsPlanes s (takeCopy r s) := by
  unfold takeCopy
  split
  · exact .of_view rfl
  · rename_i hfields
    exact takeJob_keepsPlanes r s (kindSound_of_copyFields hfields)

/-- R136, R137. -/
theorem execJobWritesPixel_keepsPlanes (s : State) : holdsAfter (KeepsPlanes s) (execJobWritesPixel s) := by
  unfold execJobWritesPixel
  split
  · exact .refl s
  · rename_i j rest hjobs
    split
    · exact .refl s
    · rename_i k image hrun
      split
      · rename_i hk
        intro hlaw
        have himage := hlaw.running_image hjobs hrun
        obtain ⟨hpending, htarget, hshown, hsound⟩ := hlaw
        rw [hjobs] at hsound
        obtain ⟨hj, hrest⟩ := List.forall_mem_cons.mp hsound
        obtain ⟨hkind, -⟩ := (jobSound_iff j).mp hj
        exact ⟨planeWf_writeJobPixel himage hk hpending, htarget, hshown,
          List.forall_mem_cons.mpr ⟨(jobSound_iff _).mpr ⟨hkind, hk, himage⟩, hrest⟩⟩
      · exact .refl s

/-- R138 step 3. -/
theorem jobSound_startOldest {p : Plane Level} {jobs : List Job} (hform : planeWf 800 600 p = true)
    (h : ∀ j ∈ jobs, jobSound j) : ∀ j ∈ startOldest p jobs, jobSound j := by
  cases jobs with
  | nil => exact h
  | cons j rest =>
    obtain ⟨hj, hrest⟩ := List.forall_mem_cons.mp h
    obtain ⟨hkind, -⟩ := (jobSound_iff j).mp hj
    exact List.forall_mem_cons.mpr ⟨jobSound_startJob hform hkind, hrest⟩

/-- R138 steps 1 to 3. -/
theorem PlanesLaw.finishJob {s : State} {j : Job} {rest : List Job} {k : Nat} {image : Plane Level} (h : PlanesLaw s)
    (hjobs : s.raster.jobs = j :: rest) (hrun : j.progress = .running k image) : PlanesLaw (finishJob j rest image s) := by
  have himage := h.running_image hjobs hrun
  obtain ⟨hpending, htarget, hshown, hsound⟩ := h
  obtain ⟨-, -, hc, hr⟩ := region_on_panel (jobTarget j.kind)
  have hpasted := planeWf_planePaste _ _ _ _ _ hpending himage hc hr
  rw [hjobs] at hsound
  obtain ⟨-, hrest⟩ := List.forall_mem_cons.mp hsound
  exact ⟨hpasted, htarget, hshown, jobSound_startOldest hpasted hrest⟩

theorem execJobCompletion_keepsPlanes (s : State) : holdsAfter (KeepsPlanes s) (execJobCompletion s) := by
  unfold execJobCompletion
  split
  · exact .refl s
  · rename_i j rest hjobs
    split
    · exact .refl s
    · rename_i k image hrun
      have hfinished : KeepsPlanes s (finishJob j rest image s) := fun hlaw => hlaw.finishJob hjobs hrun
      refine KeepsPlanes.evaluated (hfinished.trans ?_)
      exact .of_view rfl

/-! ### Events -/

section
variable (s : State)

theorem execVerificationComplete_keepsPlanes (bank : BankId) : holdsAfter (KeepsPlanes s) (execVerificationComplete bank s) := by
  unfold execVerificationComplete
  split
  · exact .of_kept (driveView_finishVerify bank s) ((setBank_unitsKept s ..).trans (finishWork_unitsKept _ ..))
  · exact .refl s

theorem execFrameBoundary_keepsPlanes : holdsAfter (KeepsPlanes s) (execFrameBoundary s) := by
  unfold execFrameBoundary
  split
  · exact .refl s
  · exact deliverBoundary_keepsPlanes s

theorem execPowerGoodAssert_keepsPlanes : holdsAfter (KeepsPlanes s) (execPowerGoodAssert s) := by
  unfold execPowerGoodAssert
  split
  · exact .refl s
  · split <;> exact .of_view rfl

theorem execPowerGoodLoss_keepsPlanes : holdsAfter (KeepsPlanes s) (execPowerGoodLoss s) := by
  have hlow : KeepsPlanes s { s with powerGood := false } := .of_view rfl
  unfold execPowerGoodLoss
  split
  · split
    · exact hlow.trans (losePower_keepsPlanes _)
    · exact hlow
  · exact .refl s

theorem execRiseTimerExpiry_keepsPlanes : holdsAfter (KeepsPlanes s) (execRiseTimerExpiry s) := by
  unfold execRiseTimerExpiry
  split
  · split
    · exact .of_view rfl
    · exact enterFault_keepsPlanes _ s
  · exact .refl s

theorem execSettleTimerExpiry_keepsPlanes : holdsAfter (KeepsPlanes s) (execSettleTimerExpiry s) := by
  unfold execSettleTimerExpiry
  split
  · exact enterOn_keepsPlanes s
  · exact .refl s

theorem execHoldTimerExpiry_keepsPlanes : holdsAfter (KeepsPlanes s) (execHoldTimerExpiry s) := by
  unfold execHoldTimerExpiry
  split <;> exact .of_view rfl

theorem execFallTimerExpiry_keepsPlanes : holdsAfter (KeepsPlanes s) (execFallTimerExpiry s) := by
  unfold execFallTimerExpiry
  split
  · exact fallEnds_keepsPlanes s
  · exact .refl s

theorem execConversionStart_keepsPlanes : holdsAfter (KeepsPlanes s) (execConversionStart s) := by
  unfold execConversionStart
  split <;> exact .of_view rfl

theorem execConversionComplete_keepsPlanes (result : SensorResult) :
    holdsAfter (KeepsPlanes s) (execConversionComplete result s) := by
  have hidle : KeepsPlanes s { s with temp := { s.temp with converting := false } } := .of_view rfl
  unfold execConversionComplete
  split
  · split
    · exact hidle.trans (setReading_keepsPlanes _ _)
    · exact .refl s
  · trivial

theorem ageReading_keepsPlanes (g : Reading) : KeepsPlanes s (ageReading g s) :=
  .of_kept (driveView_ageReading g s) (ageReading_unitsKept s g)

theorem execAgeRise_keepsPlanes : holdsAfter (KeepsPlanes s) (execAgeRise s) := by
  unfold execAgeRise
  split
  · exact .refl s
  · exact ageReading_keepsPlanes s _

theorem execReadingBecomesStale_keepsPlanes : holdsAfter (KeepsPlanes s) (execReadingBecomesStale s) := by
  unfold execReadingBecomesStale
  split
  · exact .refl s
  · split
    · exact ageReading_keepsPlanes s _
    · exact .refl s

/-- R144, R162, R183: what follows the last byte of a reply. -/
theorem execReplySent_keepsPlanes : holdsAfter (KeepsPlanes s) (execReplySent s) := by
  unfold execReplySent
  split
  · rename_i q cacheable _
    refine KeepsPlanes.trans (.of_linkFrame (settled_frame q cacheable s)) ?_
    unfold replyEffect
    split
    · exact .refl _
    · exact .of_linkFrame (linkFrame_trans (checkFrame_linkFrame _) (changeLineRate_linkFrame _ _))
    · exact restartTakesEffect_keepsPlanes _
  · exact .refl s
  · exact .refl s

/-- R12. -/
theorem execPinReset_keepsPlanes : holdsAfter (KeepsPlanes s) (execPinReset s) := fun _ => planesLaw_reset

theorem execStartUp_keepsPlanes : holdsAfter (KeepsPlanes s) (execStartUp s) := by
  unfold execStartUp
  split <;> exact .of_view rfl

theorem execStartUpEnd_keepsPlanes : holdsAfter (KeepsPlanes s) (execStartUpEnd s) := by
  unfold execStartUpEnd
  split <;> exact .of_view rfl

end

/-! ### Every command -/

section
variable {s : State}

/-- R158: a taking keeps the law when the request does. -/
theorem dispatch_keepsPlanes (code : RequestCode) {run : Request → State → State} (h : ∀ r, KeepsPlanes s (run r s)) :
    KeepsPlanes s (dispatch code run s) := by
  obtain e | ⟨r, -, e⟩ := dispatch_cases code run s
  · rw [e]; exact .refl s
  · rw [e]; exact h r

/-- A taking that leaves the planes and the Raster Unit. -/
theorem dispatch_kept_keepsPlanes (code : RequestCode) {run : Request → State → State}
    (hview : ∀ r, driveView (run r s) = driveView s) (hunits : ∀ r, UnitsKept s (run r s)) :
    KeepsPlanes s (dispatch code run s) := dispatch_keepsPlanes code fun r => .of_kept (hview r) (hunits r)

theorem keepsPlanes_of_link {o : Host.Outcome State Fault Refusal} (h : holdsAfter (linkFrame s) o) :
    holdsAfter (KeepsPlanes s) o := holdsAfter_mono (fun _ => .of_linkFrame) h

end

/-- Chapter 1, R130: every command keeps the law. -/
theorem exec_keepsPlanes (c : Instr) (s : State) : holdsAfter (KeepsPlanes s) (exec c s) := by
  cases c with
  | frame => exact keepsPlanes_of_link (execFrame_linkFrame s)
  | gapTimeout => exact keepsPlanes_of_link (execGapTimeout_linkFrame s)
  | hello => exact keepsPlanes_of_link (execHello_linkFrame s)
  | unknownCode => exact keepsPlanes_of_link (execUnknownCode_linkFrame s)
  | getStatus => exact dispatch_kept_keepsPlanes _ (driveView_reportStatus · s) (reportStatus_unitsKept · s)
  | getParameter => exact dispatch_kept_keepsPlanes _ (driveView_reportParameter · s) (reportParameter_unitsKept · s)
  | setParameter => exact dispatch_keepsPlanes _ (setParameter_keepsPlanes · s)
  | restart => exact dispatch_kept_keepsPlanes _ (driveView_takeRestart · s) (takeRestart_unitsKept · s)
  | grantNotices => exact dispatch_kept_keepsPlanes _ (driveView_grant · s) (grant_unitsKept · s)
  | submitUpdate => exact dispatch_keepsPlanes _ (submitUpdate_keepsPlanes · s)
  | cancelUpdate => exact dispatch_keepsPlanes _ (cancelUpdate_keepsPlanes · s)
  | queryUpdate => exact dispatch_kept_keepsPlanes _ (driveView_queryUpdate · s) (queryUpdate_unitsKept · s)
  | halt => exact dispatch_keepsPlanes _ (takeHalt_keepsPlanes · s)
  | resume => exact dispatch_keepsPlanes _ (takeResume_keepsPlanes · s)
  | bankOpen => exact dispatch_kept_keepsPlanes _ (driveView_openBank · s) (openBank_unitsKept · s)
  | bankData => exact dispatch_kept_keepsPlanes _ (driveView_storeBankData · s) (storeBankData_unitsKept · s)
  | bankVerify => exact dispatch_kept_keepsPlanes _ (driveView_beginVerify · s) (beginVerify_unitsKept · s)
  | bankActivate => exact dispatch_kept_keepsPlanes _ (driveView_takeActivate · s) (takeActivate_unitsKept · s)
  | bankErase => exact dispatch_kept_keepsPlanes _ (driveView_eraseBank · s) (eraseBank_unitsKept · s)
  | temperatureReport => exact dispatch_keepsPlanes _ (reportTemperature_keepsPlanes · s)
  | clearFault => exact dispatch_keepsPlanes _ (clearFault_keepsPlanes · s)
  | loadOpen => exact dispatch_keepsPlanes _ (takeLoadOpen_keepsPlanes · s)
  | loadData => exact dispatch_keepsPlanes _ (takeLoadData_keepsPlanes · s)
  | loadClose => exact dispatch_keepsPlanes _ (takeLoadClose_keepsPlanes · s)
  | readPixels => exact dispatch_kept_keepsPlanes _ (driveView_takeReadPixels · s) (takeReadPixels_unitsKept · s)
  | fill => exact dispatch_keepsPlanes _ (takeFill_keepsPlanes · s)
  | copy => exact dispatch_keepsPlanes _ (takeCopy_keepsPlanes · s)
  | jobCompletion => exact execJobCompletion_keepsPlanes s
  | verificationComplete bank => exact execVerificationComplete_keepsPlanes s bank
  | frameBoundary => exact execFrameBoundary_keepsPlanes s
  | powerGoodAssert => exact execPowerGoodAssert_keepsPlanes s
  | powerGoodLoss => exact execPowerGoodLoss_keepsPlanes s
  | riseTimerExpiry => exact execRiseTimerExpiry_keepsPlanes s
  | settleTimerExpiry => exact execSettleTimerExpiry_keepsPlanes s
  | holdTimerExpiry => exact execHoldTimerExpiry_keepsPlanes s
  | fallTimerExpiry => exact execFallTimerExpiry_keepsPlanes s
  | conversionStart => exact execConversionStart_keepsPlanes s
  | conversionComplete result => exact execConversionComplete_keepsPlanes s result
  | ageRise => exact execAgeRise_keepsPlanes s
  | readingBecomesStale => exact execReadingBecomesStale_keepsPlanes s
  | replyBegin => exact keepsPlanes_of_link (execReplyBegin_linkFrame s)
  | replySent => exact execReplySent_keepsPlanes s
  | noticeBegin => exact keepsPlanes_of_link (execNoticeBegin_linkFrame s)
  | noticeSent => exact keepsPlanes_of_link (execNoticeSent_linkFrame s)
  | pinReset => exact execPinReset_keepsPlanes s
  | startUp => exact execStartUp_keepsPlanes s
  | startUpEnd => exact execStartUpEnd_keepsPlanes s
  | receivedByte value => exact keepsPlanes_of_link (execReceivedByte_linkFrame value s)
  | jobWritesPixel => exact execJobWritesPixel_keepsPlanes s

/-- Settles O51, command by command. -/
theorem stepKeepsThePlanes : Obligations.StepKeepsThePlanes := by
  intro s t hlaw hstep
  obtain rfl | ⟨c, rest, -, hexec⟩ := step_cases hstep
  · exact hlaw
  · exact holdsAfter_next (exec_keepsPlanes c { s with pending := rest }) hexec hlaw

end Sys2Proof.Machine
end

section
/-! The Request Table, the Reply Cache and the SEQ values they hold (R154 to R156, R161): what each operation of the Control Line
makes of them, as plain lists. -/

namespace Sys2Proof.Machine

/-! ### The SEQ values -/

/-- R161: the SEQ values of the EXECUTING entries. -/
def executingSeqs (table : List Request) : List Byte := (table.filter isExecuting).map (·.seq)

/-- R162: the SEQ value of an entry's reply on the line. -/
def lineSeqs : Transmitter → List Byte
  | .idle => []
  | .sendingReply q _ => if isEntryReply q then [q.reply.seq] else []
  | .sendingNotice _ _ => []

/-- R161: the SEQ values of the entry replies that wait. -/
def waitingSeqs (replies : List QueuedReply) : List Byte := (replies.filter isEntryReply).map (·.reply.seq)

theorem replySeqs_eq (l : Link) : replySeqs l = lineSeqs l.transmitter ++ waitingSeqs l.replies := by
  unfold replySeqs
  cases l.transmitter <;> rfl

theorem isEntryReply_iff (q : QueuedReply) : isEntryReply q = true ↔ q.origin = .entry := decide_eq_true_iff

theorem lineSeqs_of_entry {q : QueuedReply} (h : q.origin = .entry) (cacheable : Bool) :
    lineSeqs (.sendingReply q cacheable) = [q.reply.seq] := if_pos ((isEntryReply_iff q).mpr h)

theorem lineSeqs_of_not_entry {q : QueuedReply} (h : q.origin ≠ .entry) (cacheable : Bool) :
    lineSeqs (.sendingReply q cacheable) = [] := if_neg (mt (isEntryReply_iff q).mp h)

section
variable (table t₁ t₂ : List Request) (r : Request)

theorem tableSeqs_append : tableSeqs (t₁ ++ t₂) = tableSeqs t₁ ++ tableSeqs t₂ := by simp [tableSeqs]

theorem executingSeqs_append : executingSeqs (t₁ ++ t₂) = executingSeqs t₁ ++ executingSeqs t₂ := by simp [executingSeqs]

theorem tableSeqs_cons : tableSeqs (r :: table) = if r.orphaned then tableSeqs table else r.seq :: tableSeqs table := by
  cases h : r.orphaned <;> simp [tableSeqs, h]

theorem executingSeqs_cons :
    executingSeqs (r :: table) = if r.state = .executing then r.seq :: executingSeqs table else executingSeqs table := by
  by_cases h : r.state = .executing <;> simp [executingSeqs, isExecuting, h]

theorem waitingSeqs_append (q₁ q₂ : List QueuedReply) : waitingSeqs (q₁ ++ q₂) = waitingSeqs q₁ ++ waitingSeqs q₂ := by
  simp [waitingSeqs]

theorem executingSeqs_length_le : (executingSeqs table).length ≤ table.length := by
  rw [executingSeqs, List.length_map]
  exact List.length_filter_le _ _

end

theorem mem_tableSeqs {table : List Request} {seq : Byte} :
    seq ∈ tableSeqs table ↔ ∃ r ∈ table, r.seq = seq ∧ r.orphaned = false := by
  simp only [tableSeqs, List.mem_map, List.mem_filter, Bool.not_eq_true', and_assoc]
  exact exists_congr fun r => and_congr_right fun _ => and_comm

theorem mem_executingSeqs {table : List Request} {seq : Byte} :
    seq ∈ executingSeqs table ↔ ∃ r ∈ table, r.state = .executing ∧ r.seq = seq := by
  simp [executingSeqs, isExecuting, and_assoc]

/-- R154: only DEFERRED entries are orphaned. -/
def orphansDeferred (table : List Request) : Prop := ∀ r ∈ table, r.orphaned = true → ∃ work, r.state = .deferred work

theorem orphaned_eq_false {table : List Request} (h : orphansDeferred table) {r : Request} (hr : r ∈ table)
    (hstate : ∀ work, r.state ≠ .deferred work) : r.orphaned = false := by
  cases horphaned : r.orphaned with
  | false => rfl
  | true =>
    obtain ⟨work, hwork⟩ := h r hr horphaned
    exact absurd hwork (hstate work)

/-- R155: an EXECUTING entry takes part in SEQ matching. -/
theorem executingSeqs_sublist {table : List Request} (h : orphansDeferred table) :
    (executingSeqs table).Sublist (tableSeqs table) := by
  have hfilter : table.filter isExecuting = (table.filter fun r => !r.orphaned).filter isExecuting := by
    rw [List.filter_filter]
    refine List.filter_congr fun r hr => ?_
    by_cases hstate : r.state = .executing
    · simp [isExecuting, hstate, orphaned_eq_false h hr (by simp [hstate])]
    · simp [isExecuting, hstate]
  rw [executingSeqs, hfilter]
  exact List.filter_sublist.map _

/-! ### Outstanding entries and cached replies (R155) -/

theorem outstandingWith_iff (table : List Request) (seq : Byte) :
    outstandingWith table seq = true ↔ seq ∈ tableSeqs table := by
  rw [mem_tableSeqs]
  simp [outstandingWith]

theorem outstandingWith_eq_false {table : List Request} {seq : Byte} (h : seq ∉ tableSeqs table) :
    outstandingWith table seq = false := Bool.eq_false_iff.mpr (mt (outstandingWith_iff table seq).mp h)

theorem cachedReply_eq_some {cache : List Reply} {seq : Byte} {r : Reply} (h : cachedReply cache seq = some r) :
    r ∈ cache ∧ r.seq = seq := ⟨List.mem_of_find?_eq_some h, by simpa using List.find?_some h⟩

theorem cachedReply_eq_none {cache : List Reply} {seq : Byte} : cachedReply cache seq = none ↔ seq ∉ cache.map (·.seq) := by
  simp [cachedReply]

/-- R155: with no SEQ twice in the cache, the cached reply of a SEQ is the one that holds it. -/
theorem cachedReply_of_mem {cache : List Reply} {r : Reply} (hnodup : (cache.map (·.seq)).Nodup) (hr : r ∈ cache) :
    cachedReply cache r.seq = some r := by
  cases hfound : cachedReply cache r.seq with
  | none => exact absurd (List.mem_map_of_mem hr) (cachedReply_eq_none.mp hfound)
  | some p =>
    obtain ⟨hp, hseq⟩ := cachedReply_eq_some hfound
    rw [List.inj_on_of_nodup_map hnodup hp hr hseq]

theorem cacheRemove_of_not_mem {cache : List Reply} {seq : Byte} (h : seq ∉ cache.map (·.seq)) :
    cacheRemove cache seq = cache := by
  refine List.filter_eq_self.mpr fun r hr => decide_eq_true fun hseq => h ?_
  exact hseq ▸ List.mem_map_of_mem hr

theorem cacheRemove_seqs (cache : List Reply) (seq : Byte) :
    (cacheRemove cache seq).map (·.seq) = (cache.map (·.seq)).filter fun q => decide (q ≠ seq) := by
  rw [cacheRemove, List.filter_map]
  rfl

theorem not_mem_cacheRemove_seqs (cache : List Reply) (seq : Byte) : seq ∉ (cacheRemove cache seq).map (·.seq) := by
  simp [cacheRemove_seqs]

theorem cacheRemove_sublist (cache : List Reply) (seq : Byte) : (cacheRemove cache seq).Sublist cache := List.filter_sublist

/-- R156: a reply that joins the cache leaves at most 8 there. -/
theorem cacheAdd_length {cache : List Reply} (r : Reply) (h : cache.length ≤ 8) : (cacheAdd cache r).length ≤ 8 := by
  unfold cacheAdd
  split
  · simp only [List.length_append, List.length_drop, List.length_singleton]
    omega
  · rename_i hroom
    simp only [Config.cacheCapacity] at hroom
    simp only [List.length_append, List.length_singleton]
    omega

/-- R156: what is cached after a reply joins was cached before, or is the reply. -/
theorem cacheAdd_sublist (cache : List Reply) (r : Reply) : (cacheAdd cache r).Sublist (cache ++ [r]) := by
  unfold cacheAdd
  split
  · exact (List.drop_sublist 1 cache).append (.refl _)
  · exact .refl _

/-! ### An entry taken (R158) -/

theorem tableSeqs_markFirst (p : Request → Bool) (st : RequestState) (table : List Request) :
    tableSeqs (markFirst p st table) = tableSeqs table := by
  induction table with
  | nil => rfl
  | cons r t ih =>
    unfold markFirst
    split
    · simp only [tableSeqs_cons]
    · simp only [tableSeqs_cons, ih]

/-- R158: the oldest WAITING entry with the entries around it. -/
theorem find_isWaiting_split {table : List Request} {r : Request} (h : table.find? isWaiting = some r) :
    r.state = .waiting ∧ ∃ before after, table = before ++ r :: after ∧ ∀ q ∈ before, isWaiting q = false := by
  obtain ⟨hr, before, after, htable, hbefore⟩ := List.find?_eq_some_iff_append.mp h
  exact ⟨of_decide_eq_true hr, before, after, htable, fun q hq => by simpa using hbefore q hq⟩

/-- R158: the entry taken to be answered becomes EXECUTING. -/
theorem executingSeqs_markFirst_executing {table : List Request} {r : Request} (h : table.find? isWaiting = some r) :
    (executingSeqs (markFirst isWaiting .executing table)).Perm (r.seq :: executingSeqs table) := by
  obtain ⟨hr, before, after, rfl, hbefore⟩ := find_isWaiting_split h
  rw [markFirst_split isWaiting .executing before after r hbefore (decide_eq_true hr), executingSeqs_append,
    executingSeqs_append, executingSeqs_cons, executingSeqs_cons, if_pos rfl, if_neg (by simp [hr])]
  exact List.perm_middle

/-- R158: an entry that is deferred was not EXECUTING. -/
theorem executingSeqs_markFirst_deferred (work : Work) (table : List Request) :
    executingSeqs (markFirst isWaiting (.deferred work) table) = executingSeqs table := by
  induction table with
  | nil => rfl
  | cons r t ih =>
    unfold markFirst
    split
    · rename_i hr
      have hr : r.state = .waiting := of_decide_eq_true hr
      simp [executingSeqs_cons, hr]
    · simp only [executingSeqs_cons, ih]

/-- R154: an entry that takes a state was WAITING, and so not orphaned. -/
theorem orphansDeferred_markFirst (st : RequestState) {table : List Request} (h : orphansDeferred table) :
    orphansDeferred (markFirst isWaiting st table) := by
  induction table with
  | nil => exact h
  | cons r t ih =>
    have ht : orphansDeferred t := fun q hq => h q (List.mem_cons_of_mem r hq)
    unfold markFirst
    split
    · rename_i hr
      have hr : r.state = .waiting := of_decide_eq_true hr
      refine List.forall_mem_cons.mpr ⟨fun horphaned => ?_, ht⟩
      cases (orphaned_eq_false h List.mem_cons_self (by simp [hr])).symm.trans horphaned
    · exact List.forall_mem_cons.mpr ⟨h r List.mem_cons_self, ih ht⟩

/-! ### The end of deferred work (R154, R157) -/

theorem finishTable_eq (work : Work) (table : List Request) : finishTable work table =
    (table.filter fun r => !(decide (r.state = .deferred work) && r.orphaned)).map fun r =>
      if r.state = .deferred work then { r with state := .executing } else r := by
  induction table with
  | nil => rfl
  | cons r t ih =>
    unfold finishTable
    by_cases hstate : r.state = .deferred work
    · cases horphaned : r.orphaned <;> simp [hstate, horphaned, ih]
    · simp [hstate, ih]

/-- R155: orphaned entries have no part in SEQ matching, and every other entry keeps its SEQ. -/
theorem tableSeqs_finishTable (work : Work) (table : List Request) : tableSeqs (finishTable work table) = tableSeqs table := by
  induction table with
  | nil => rfl
  | cons r t ih =>
    unfold finishTable
    split
    · split
      · rename_i horphaned
        rw [tableSeqs_cons, if_pos horphaned, ih]
      · simp only [tableSeqs_cons, ih]
    · simp only [tableSeqs_cons, ih]

theorem waitingSeqs_finishReplies (work : Work) (st : Status) (fields : List Byte) (table : List Request) :
    waitingSeqs (finishReplies work st fields table) =
      (table.filter fun r => decide (r.state = .deferred work) && !r.orphaned).map (·.seq) := by
  rw [waitingSeqs, finishReplies, List.filter_eq_self.mpr, List.map_map]
  · rfl
  · intro q hq
    obtain ⟨r, -, rfl⟩ := List.mem_map.mp hq
    rfl

/-- R157: each entry that waited for the work is EXECUTING afterwards, and its reply waits. -/
theorem executingSeqs_finishTable (work : Work) (st : Status) (fields : List Byte) (table : List Request) :
    (executingSeqs (finishTable work table)).Perm
      (executingSeqs table ++ waitingSeqs (finishReplies work st fields table)) := by
  rw [waitingSeqs_finishReplies]
  induction table with
  | nil => exact .nil
  | cons r t ih =>
    unfold finishTable
    by_cases hstate : r.state = .deferred work
    · cases horphaned : r.orphaned with
      | true => simpa [executingSeqs_cons, hstate, horphaned] using ih
      | false => simpa [executingSeqs_cons, hstate, horphaned] using (ih.cons r.seq).trans List.perm_middle.symm
    · by_cases hexecuting : r.state = .executing
      · simpa [executingSeqs_cons, hexecuting] using ih
      · simpa [executingSeqs_cons, hstate, hexecuting] using ih

theorem orphansDeferred_finishTable (work : Work) {table : List Request} (h : orphansDeferred table) :
    orphansDeferred (finishTable work table) := by
  intro q hq horphaned
  rw [finishTable_eq] at hq
  obtain ⟨r, hr, rfl⟩ := List.mem_map.mp hq
  obtain ⟨hr, hkept⟩ := List.mem_filter.mp hr
  split at horphaned
  · rename_i hstate
    simp [hstate, show r.orphaned = true from horphaned] at hkept
  · rename_i hstate
    rw [if_neg hstate]
    exact h r hr horphaned

/-! ### The end of a reply (R154, R162) -/

/-- R154: whether an entry is the one a SEQ's reply belongs to. -/
def isAnswered (seq : Byte) (r : Request) : Bool := decide (r.seq = seq ∧ r.orphaned = false ∧ r.state = .executing)

theorem removeAnswered_eq (seq : Byte) (table : List Request) : removeAnswered seq table = table.eraseP (isAnswered seq) := by
  induction table with
  | nil => rfl
  | cons r t ih =>
    unfold removeAnswered
    by_cases h : r.seq = seq ∧ r.orphaned = false ∧ r.state = .executing
    · rw [if_pos h, List.eraseP_cons_of_pos (p := isAnswered seq) (decide_eq_true h)]
    · rw [if_neg h, List.eraseP_cons_of_neg (by simpa [isAnswered] using h), ih]

theorem removeAnswered_sublist (seq : Byte) (table : List Request) : (removeAnswered seq table).Sublist table := by
  rw [removeAnswered_eq]
  exact List.eraseP_sublist

/-- R154: the entry whose reply has been sent leaves: one EXECUTING entry of that SEQ, and no other. -/
theorem removeAnswered_split {table : List Request} {seq : Byte} (horphans : orphansDeferred table)
    (h : seq ∈ executingSeqs table) : ∃ before r after, table = before ++ r :: after ∧
      removeAnswered seq table = before ++ after ∧ r.seq = seq ∧ r.orphaned = false ∧ r.state = .executing := by
  obtain ⟨p, hp, hstate, hseq⟩ := mem_executingSeqs.mp h
  have hanswered : isAnswered seq p = true :=
    decide_eq_true ⟨hseq, orphaned_eq_false horphans hp (by simp [hstate]), hstate⟩
  obtain ⟨r, before, after, -, hr, htable, herase⟩ := List.exists_of_eraseP hp hanswered
  exact ⟨before, r, after, htable, (removeAnswered_eq seq table).trans herase, of_decide_eq_true hr⟩

theorem tableSeqs_removeAnswered {table : List Request} {seq : Byte} (horphans : orphansDeferred table)
    (h : seq ∈ executingSeqs table) : (tableSeqs table).Perm (seq :: tableSeqs (removeAnswered seq table)) := by
  obtain ⟨before, r, after, htable, hremove, rfl, horphaned, -⟩ := removeAnswered_split horphans h
  rw [hremove, htable, tableSeqs_append, tableSeqs_append, tableSeqs_cons, horphaned]
  exact List.perm_middle

theorem executingSeqs_removeAnswered {table : List Request} {seq : Byte} (horphans : orphansDeferred table)
    (h : seq ∈ executingSeqs table) : (executingSeqs table).Perm (seq :: executingSeqs (removeAnswered seq table)) := by
  obtain ⟨before, r, after, htable, hremove, rfl, -, hstate⟩ := removeAnswered_split horphans h
  rw [hremove, htable, executingSeqs_append, executingSeqs_append, executingSeqs_cons, if_pos hstate]
  exact List.perm_middle

/-! ### A reopening Hello (R152) -/

theorem reopenTable_eq (tx : Transmitter) (table : List Request) : reopenTable tx table =
    (table.filter fun r =>
      match r.state with
      | .waiting => false
      | .executing => replyBegun tx r
      | .deferred _ => true).map fun r =>
      match r.state with
      | .waiting => r
      | .executing => r
      | .deferred _ => { r with orphaned := true } := by
  induction table with
  | nil => rfl
  | cons r t ih =>
    unfold reopenTable
    cases hstate : r.state with
    | waiting => simp [hstate, ih]
    | executing => cases hbegun : replyBegun tx r <;> simp [hstate, hbegun, ih]
    | deferred work => simp [hstate, ih]

theorem reopenTable_length (tx : Transmitter) (table : List Request) : (reopenTable tx table).length ≤ table.length := by
  rw [reopenTable_eq, List.length_map]
  exact List.length_filter_le _ _

theorem tableSeqs_reopenTable (tx : Transmitter) (table : List Request) :
    (tableSeqs (reopenTable tx table)).Sublist (tableSeqs table) := by
  induction table with
  | nil => exact .refl _
  | cons r t ih =>
    have hcons : (tableSeqs t).Sublist (tableSeqs (r :: t)) := by
      rw [tableSeqs_cons]
      split
      · exact .refl _
      · exact List.sublist_cons_self _ _
    unfold reopenTable
    split
    · exact ih.trans hcons
    · split
      · rw [tableSeqs_cons, tableSeqs_cons]
        split
        · exact ih
        · exact ih.cons_cons _
      · exact ih.trans hcons
    · rw [tableSeqs_cons, if_pos rfl]
      exact ih.trans hcons

theorem orphansDeferred_reopenTable (tx : Transmitter) {table : List Request} (h : orphansDeferred table) :
    orphansDeferred (reopenTable tx table) := by
  induction table with
  | nil => exact h
  | cons r t ih =>
    obtain ⟨hr, ht⟩ := List.forall_mem_cons.mp h
    unfold reopenTable
    split
    · exact ih ht
    · split
      · exact List.forall_mem_cons.mpr ⟨hr, ih ht⟩
      · exact ih ht
    · rename_i work hstate
      exact List.forall_mem_cons.mpr ⟨fun _ => ⟨work, hstate⟩, ih ht⟩

theorem replyBegun_iff (tx : Transmitter) (r : Request) : replyBegun tx r = true ↔ r.seq ∈ lineSeqs tx := by
  cases tx with
  | idle => simp [replyBegun, lineSeqs]
  | sendingReply q cacheable =>
    by_cases h : q.origin = .entry
    · simp [replyBegun, lineSeqs_of_entry h, h, eq_comm]
    · simp [replyBegun, lineSeqs_of_not_entry h, h]
  | sendingNotice seq n => simp [replyBegun, lineSeqs]

/-- R152: of the EXECUTING entries those stay whose reply has begun. -/
theorem executingSeqs_reopenTable (tx : Transmitter) (table : List Request) :
    executingSeqs (reopenTable tx table) = (executingSeqs table).filter fun seq => decide (seq ∈ lineSeqs tx) := by
  induction table with
  | nil => rfl
  | cons r t ih =>
    unfold reopenTable
    cases hstate : r.state with
    | waiting => simp [executingSeqs_cons, hstate, ih]
    | executing =>
      by_cases hbegun : r.seq ∈ lineSeqs tx
      · simp [executingSeqs_cons, hstate, ih, (replyBegun_iff tx r).mpr hbegun, hbegun]
      · simp [executingSeqs_cons, hstate, ih, Bool.eq_false_iff.mpr (mt (replyBegun_iff tx r).mp hbegun), hbegun]
    | deferred work => simp [executingSeqs_cons, hstate, ih]

theorem lineSeqs_reopenTransmitter (tx : Transmitter) : lineSeqs (reopenTransmitter tx) = lineSeqs tx := by
  cases tx <;> rfl

end Sys2Proof.Machine
end

section
/-! What may happen on the Control Line, said once as moves of its interface and of the Notice Queue (R146 to R171), and that
every move keeps the bounds and the law of each. -/

namespace Sys2Proof.Machine

/-! ### The Notice Queue (R166 to R171) -/

/-- What one event does to the Notice Queue: an offer, a credit in its range, the oldest notice taken to the line, or a reset. -/
inductive NoticeMove (q : NoticeQueue) : NoticeQueue → Prop
  | offered (n : Notice) : NoticeMove q (offerTo q n)
  | credited (credit : Nat) (range : credit ≤ 255) : NoticeMove q { q with credit := credit }
  | taken (n : Notice) (rest : List Notice) (head : q.items = n :: rest) : NoticeMove q (noticeTaken rest q)
  | reset : NoticeMove q .reset

/-- R166, R169: the ranges of the Notice Queue; drops are unreported only while it is full. -/
structure NoticesSound (q : NoticeQueue) : Prop where
  room : q.items.length ≤ 16
  credit : q.credit ≤ 255
  lost : q.lost ≤ 65535
  full : 0 < q.lost → q.items.length = 16

theorem noticeLaw_iff (s : State) : NoticeLaw s ↔ NoticesSound s.notices :=
  ⟨fun ⟨hroom, hcredit, hlost, hfull⟩ => ⟨hroom, hcredit, hlost, hfull⟩, fun h => ⟨h.room, h.credit, h.lost, h.full⟩⟩

section
variable {q q' : NoticeQueue}

/-- R168: a notice joins while there is room, when none is unreported; else it is dropped and counted. -/
theorem NoticesSound.offered (h : NoticesSound q) (n : Notice) : NoticesSound (offerTo q n) := by
  have hroom := h.room
  unfold offerTo
  split
  · rename_i hfree
    simp only [Config.noticeCapacity] at hfree
    refine ⟨by simpa using hfree, h.credit, h.lost, fun hlost => ?_⟩
    have := h.full hlost
    omega
  · rename_i hfull
    simp only [Config.noticeCapacity] at hfull
    exact ⟨hroom, h.credit, Nat.min_le_left _ _, fun _ => by show q.items.length = 16; omega⟩

/-- R169: the place the notice taken frees is the place of a Notice Loss notice where drops are unreported. -/
theorem NoticesSound.taken (h : NoticesSound q) {n : Notice} {rest : List Notice} (head : q.items = n :: rest) :
    NoticesSound (noticeTaken rest q) := by
  have hroom : rest.length + 1 ≤ 16 := by simpa [head] using h.room
  have hcredit : q.credit - 1 ≤ 255 := Nat.le_trans (Nat.sub_le _ _) h.credit
  unfold noticeTaken placeLoss
  split
  · exact ⟨by simpa using hroom, hcredit, Nat.zero_le _, fun hlost => absurd hlost (Nat.lt_irrefl 0)⟩
  · rename_i hnone
    exact ⟨by show rest.length ≤ 16; omega, hcredit, h.lost, fun hlost => absurd hlost hnone⟩

theorem NoticeMove.sound (h : NoticeMove q q') (hq : NoticesSound q) : NoticesSound q' := by
  cases h with
  | offered n => exact hq.offered n
  | credited credit range => exact ⟨hq.room, range, hq.lost, hq.full⟩
  | taken n rest head => exact hq.taken head
  | reset => exact ⟨Nat.zero_le _, Nat.zero_le _, Nat.zero_le _, fun h => absurd h (Nat.lt_irrefl 0)⟩

end

/-! ### The Control Line Interface -/

/-- R149: the counters in their range. -/
structure CountersSound (k : LinkCounters) : Prop where
  crc : k.crc ≤ 65535
  gap : k.gap ≤ 65535
  length : k.length ≤ 65535
  cls : k.cls ≤ 65535
  nobuf : k.nobuf ≤ 65535

theorem countersLaw_iff (s : State) : CountersLaw s ↔ CountersSound s.link.counters :=
  ⟨fun ⟨hcrc, hgap, hlength, hcls, hnobuf⟩ => ⟨hcrc, hgap, hlength, hcls, hnobuf⟩,
    fun h => ⟨h.crc, h.gap, h.length, h.cls, h.nobuf⟩⟩

theorem countersSound_zero : CountersSound .zero :=
  ⟨Nat.zero_le _, Nat.zero_le _, Nat.zero_le _, Nat.zero_le _, Nat.zero_le _⟩

/-- R149: a counter that rises stops at 65,535. -/
theorem counterUp_le (n : Nat) : counterUp n ≤ 65535 := Nat.min_le_left _ _

/-- What one event does to the Control Line Interface: to the receiver and the counters (R146, R149); an immediate answer (R161);
a session opened or reopened (R151, R152); the admission of a request (R155); an entry answered, deferred or finished (R157,
R158); a reply begun and sent, a notice begun and sent (R162); a reset (R164, R165); or to the items that no law of the line speaks of. -/
inductive LinkMove (l : Link) : Link → Prop
  | received (r : Receiver) (sound : receiverSound l.receiver → receiverSound r) : LinkMove l { l with receiver := r }
  | counted (k : LinkCounters) (sound : CountersSound l.counters → CountersSound k) : LinkMove l { l with counters := k }
  | answered (q : QueuedReply) (origin : q.origin = .forgotten ∨ q.origin = .hello ∧ l.sessionOpen = true)
      (room : l.replies.length < 16) : LinkMove l { l with replies := l.replies ++ [q] }
  | opened : LinkMove l { l with sessionOpen := true }
  | reopened (session : l.sessionOpen = true) : LinkMove l { l with
      table := reopenTable l.transmitter l.table, replies := [], cache := [], transmitter := reopenTransmitter l.transmitter }
  | uncached (seq : Byte) : LinkMove l { l with cache := cacheRemove l.cache seq }
  | admitted (r : Request) (state : r.state = .waiting) (orphaned : r.orphaned = false) (session : l.sessionOpen = true)
      (room : l.table.length < 8) (fresh : r.seq ∈ tableSeqs l.table → r.seq ∈ l.cache.map (·.seq)) :
      LinkMove l { l with cache := cacheRemove l.cache r.seq, table := l.table ++ [r] }
  | taken (r : Request) (q : QueuedReply) (oldest : l.table.find? isWaiting = some r) (origin : q.origin = .entry)
      (seq : q.reply.seq = r.seq) : LinkMove l { l with
      table := markFirst isWaiting .executing l.table, replies := l.replies ++ [q] }
  | deferred (work : Work) : LinkMove l { l with table := markFirst isWaiting (.deferred work) l.table }
  | finished (work : Work) (st : Status) (fields : List Byte) : LinkMove l { l with
      table := finishTable work l.table, replies := l.replies ++ finishReplies work st fields l.table }
  | begun (q : QueuedReply) (rest : List QueuedReply) (idle : l.transmitter = .idle) (head : l.replies = q :: rest) :
      LinkMove l { l with replies := rest, transmitter := .sendingReply q true }
  | entrySent (q : QueuedReply) (cacheable : Bool) (sending : l.transmitter = .sendingReply q cacheable)
      (origin : q.origin = .entry) : LinkMove l { l with
      table := removeAnswered q.reply.seq l.table
      cache := if cacheable then cacheAdd l.cache q.reply else l.cache
      transmitter := .idle }
  | helloSent (q : QueuedReply) (sending : l.transmitter = .sendingReply q true) (origin : q.origin = .hello) :
      LinkMove l { l with
      cache := if outstandingWith l.table q.reply.seq then cacheRemove l.cache q.reply.seq
        else cacheAdd (cacheRemove l.cache q.reply.seq) q.reply
      transmitter := .idle }
  | lineFreed (line : lineSeqs l.transmitter = []) : LinkMove l { l with transmitter := .idle }
  | noticeBegun (seq : Byte) (n : Notice) (idle : l.transmitter = .idle) : LinkMove l { l with
      transmitter := .sendingNotice seq n }
  | unwatched (lineRate : Nat) (restartTaken straddling : Bool) : LinkMove l { l with
      lineRate := lineRate, restartTaken := restartTaken, straddling := straddling }
  | reset (cause : ResetCause) : LinkMove l (.afterReset cause)

/-! ### The receiver and the counters -/

/-- R146, R149: the receiver and the counters within their bounds. -/
def linkBounds (l : Link) : Prop := CountersSound l.counters ∧ receiverSound l.receiver

theorem LinkMove.bounds {l l' : Link} (h : LinkMove l l') (hl : linkBounds l) : linkBounds l' := by
  cases h with
  | received r sound => exact ⟨hl.1, sound hl.2⟩
  | counted k sound => exact ⟨sound hl.1, hl.2⟩
  | reset cause => exact ⟨countersSound_zero, trivial⟩
  | _ => exact hl

/-! ### The Request Table, the Reply Cache and the replies -/

/-- R154 to R156, R161: the capacities of the Request Table, the Reply Cache and the reply queue; no SEQ twice among the entries
that match and the cached replies; only DEFERRED entries orphaned; each EXECUTING entry with its one reply. -/
structure LinkSound (l : Link) : Prop where
  tableRoom : l.table.length ≤ 8
  cacheRoom : l.cache.length ≤ 8
  repliesRoom : l.replies.length ≤ 16 + (waitingSeqs l.replies).length
  seqs : (tableSeqs l.table ++ l.cache.map (·.seq)).Nodup
  orphans : orphansDeferred l.table
  matched : (lineSeqs l.transmitter ++ waitingSeqs l.replies).Perm (executingSeqs l.table)

/-- R150: nothing of an OPEN session in a CLOSED one. -/
structure SessionEmpty (l : Link) : Prop where
  table : l.table = []
  cache : l.cache = []
  replies : ∀ q ∈ l.replies, q.origin = .forgotten
  line : ∀ q cacheable, l.transmitter = .sendingReply q cacheable → q.origin = .forgotten

theorem linkLaw_iff (s : State) : LinkLaw s ↔ LinkSound s.link := by
  have hlength : (waitingSeqs s.link.replies).length = (s.link.replies.filter isEntryReply).length := List.length_map _
  constructor
  · rintro ⟨htable, hcache, hreplies, hseqs, horphans, hmatched⟩
    rw [replySeqs_eq] at hmatched
    exact ⟨htable, hcache, hlength ▸ hreplies, hseqs, horphans, hmatched⟩
  · intro h
    refine ⟨h.tableRoom, h.cacheRoom, hlength ▸ h.repliesRoom, h.seqs, h.orphans, ?_⟩
    rw [replySeqs_eq]
    exact h.matched

theorem closedLaw_iff (s : State) : ClosedLaw s ↔ (s.link.sessionOpen = false → SessionEmpty s.link) :=
  forall_congr' fun _ => ⟨fun ⟨htable, hcache, hreplies, hline⟩ => ⟨htable, hcache, hreplies, hline⟩,
    fun h => ⟨h.table, h.cache, h.replies, h.line⟩⟩

section
variable {l l' : Link}

/-- R161: at most 16 replies beside those of the entries, and so 24 in all. -/
theorem LinkSound.replies_le (h : LinkSound l) : l.replies.length ≤ 24 := by
  have hmatched := h.matched.length_eq
  rw [List.length_append] at hmatched
  have := executingSeqs_length_le l.table
  have := h.repliesRoom
  have := h.tableRoom
  omega

theorem LinkSound.executing_nodup (h : LinkSound l) : (executingSeqs l.table).Nodup :=
  (executingSeqs_sublist h.orphans).nodup (List.nodup_append.mp h.seqs).1

theorem waitingSeqs_of_not_entry {q : QueuedReply} (h : q.origin ≠ .entry) : waitingSeqs [q] = [] := by
  simp [waitingSeqs, isEntryReply, h]

theorem waitingSeqs_of_entry {q : QueuedReply} (h : q.origin = .entry) : waitingSeqs [q] = [q.reply.seq] := by
  simp [waitingSeqs, isEntryReply, h]

/-- R161: an immediate answer is no entry's reply and finds room. -/
theorem LinkSound.answered (h : LinkSound l) {q : QueuedReply} (horigin : q.origin ≠ .entry) (room : l.replies.length < 16) :
    LinkSound { l with replies := l.replies ++ [q] } := by
  have hwaiting : waitingSeqs (l.replies ++ [q]) = waitingSeqs l.replies := by
    rw [waitingSeqs_append, waitingSeqs_of_not_entry horigin, List.append_nil]
  refine ⟨h.tableRoom, h.cacheRoom, ?_, h.seqs, h.orphans, hwaiting.symm ▸ h.matched⟩
  simp only [List.length_append, List.length_singleton]
  omega

/-- R152: of the replies the one on the line remains, and of the EXECUTING entries the one it answers. -/
theorem LinkSound.reopened (h : LinkSound l) : LinkSound { l with
    table := reopenTable l.transmitter l.table, replies := [], cache := [],
    transmitter := reopenTransmitter l.transmitter } := by
  refine ⟨(reopenTable_length _ _).trans h.tableRoom, Nat.zero_le _, Nat.zero_le _, ?_,
    orphansDeferred_reopenTable _ h.orphans, ?_⟩
  · simpa using (tableSeqs_reopenTable _ _).nodup (List.nodup_append.mp h.seqs).1
  · have hnodup := h.matched.nodup_iff.mpr h.executing_nodup
    have happart := (List.nodup_append.mp hnodup).2.2
    have hfilter : (lineSeqs l.transmitter ++ waitingSeqs l.replies).filter (fun seq => decide (seq ∈ lineSeqs l.transmitter)) =
        lineSeqs l.transmitter := by
      rw [List.filter_append, List.filter_eq_self.mpr fun seq hseq => decide_eq_true hseq,
        List.filter_eq_nil_iff.mpr fun seq hseq => by simpa using fun hline => happart seq hline seq hseq rfl, List.append_nil]
    have hkept := h.matched.filter fun seq => decide (seq ∈ lineSeqs l.transmitter)
    rw [hfilter, ← executingSeqs_reopenTable] at hkept
    simpa [lineSeqs_reopenTransmitter, waitingSeqs] using hkept

/-- R155: a cached reply that is removed. -/
theorem LinkSound.uncached (h : LinkSound l) (seq : Byte) : LinkSound { l with cache := cacheRemove l.cache seq } :=
  ⟨h.tableRoom, (cacheRemove_sublist _ _).length_le.trans h.cacheRoom, h.repliesRoom,
    (((cacheRemove_sublist l.cache seq).map _).append_left _).nodup h.seqs, h.orphans, h.matched⟩

/-- R155: a request taken as new holds a SEQ that no entry that matches holds and that has left the cache. -/
theorem LinkSound.admitted (h : LinkSound l) {r : Request} (state : r.state = .waiting) (orphaned : r.orphaned = false)
    (room : l.table.length < 8) (fresh : r.seq ∈ tableSeqs l.table → r.seq ∈ l.cache.map (·.seq)) :
    LinkSound { l with cache := cacheRemove l.cache r.seq, table := l.table ++ [r] } := by
  obtain ⟨-, -, happart⟩ := List.nodup_append.mp h.seqs
  have hfresh : r.seq ∉ tableSeqs l.table := fun hmem => happart _ hmem _ (fresh hmem) rfl
  have htable : tableSeqs (l.table ++ [r]) = tableSeqs l.table ++ [r.seq] := by
    rw [tableSeqs_append, tableSeqs_cons, orphaned]
    rfl
  have hexecuting : executingSeqs (l.table ++ [r]) = executingSeqs l.table := by
    rw [executingSeqs_append, executingSeqs_cons, if_neg (by simp [state])]
    exact List.append_nil _
  have hrest := h.uncached r.seq
  refine ⟨by simpa using room, hrest.cacheRoom, h.repliesRoom, ?_, fun p hp => ?_, hexecuting.symm ▸ h.matched⟩
  · rw [htable, List.append_assoc]
    refine List.perm_middle.nodup_iff.mpr (List.nodup_cons.mpr ⟨fun hmem => ?_, hrest.seqs⟩)
    exact (List.mem_append.mp hmem).elim hfresh (not_mem_cacheRemove_seqs _ _)
  · obtain hp | hp := List.mem_append.mp hp
    · exact h.orphans p hp
    · rw [List.mem_singleton.mp hp, orphaned]
      exact (nomatch ·)

/-- R158: the entry answered becomes EXECUTING and its reply joins the queue. -/
theorem LinkSound.taken (h : LinkSound l) {r : Request} {q : QueuedReply} (oldest : l.table.find? isWaiting = some r)
    (origin : q.origin = .entry) (seq : q.reply.seq = r.seq) :
    LinkSound { l with table := markFirst isWaiting .executing l.table, replies := l.replies ++ [q] } := by
  have hwaiting : waitingSeqs (l.replies ++ [q]) = waitingSeqs l.replies ++ [r.seq] := by
    rw [waitingSeqs_append, waitingSeqs_of_entry origin, seq]
  refine ⟨by simpa using h.tableRoom, h.cacheRoom, ?_, ?_, orphansDeferred_markFirst _ h.orphans, ?_⟩
  · have := h.repliesRoom
    simp only [hwaiting, List.length_append, List.length_singleton]
    omega
  · rw [tableSeqs_markFirst]
    exact h.seqs
  · rw [hwaiting, ← List.append_assoc]
    exact (List.perm_append_singleton _ _).trans
      ((h.matched.cons _).trans (executingSeqs_markFirst_executing oldest).symm)

/-- R158: the entry deferred holds its SEQ. -/
theorem LinkSound.deferred (h : LinkSound l) (work : Work) :
    LinkSound { l with table := markFirst isWaiting (.deferred work) l.table } :=
  ⟨by simpa using h.tableRoom, h.cacheRoom, h.repliesRoom, by rw [tableSeqs_markFirst]; exact h.seqs,
    orphansDeferred_markFirst _ h.orphans, by rw [executingSeqs_markFirst_deferred]; exact h.matched⟩

/-- R157: each entry that waited for the work is EXECUTING with its reply in the queue, or was orphaned and is gone. -/
theorem LinkSound.finished (h : LinkSound l) (work : Work) (st : Status) (fields : List Byte) : LinkSound { l with
    table := finishTable work l.table, replies := l.replies ++ finishReplies work st fields l.table } := by
  have hall : (waitingSeqs (finishReplies work st fields l.table)).length = (finishReplies work st fields l.table).length := by
    rw [waitingSeqs_finishReplies, finishReplies, List.length_map, List.length_map]
  refine ⟨(finishTable_length _ _).trans h.tableRoom, h.cacheRoom, ?_, ?_, orphansDeferred_finishTable work h.orphans, ?_⟩
  · have := h.repliesRoom
    simp only [waitingSeqs_append, List.length_append, hall]
    omega
  · rw [tableSeqs_finishTable]
    exact h.seqs
  · rw [waitingSeqs_append, ← List.append_assoc]
    exact (h.matched.append_right _).trans (executingSeqs_finishTable work st fields l.table).symm

/-- R162: the oldest reply leaves the queue for the line. -/
theorem LinkSound.begun (h : LinkSound l) {q : QueuedReply} {rest : List QueuedReply} (idle : l.transmitter = .idle)
    (head : l.replies = q :: rest) : LinkSound { l with replies := rest, transmitter := .sendingReply q true } := by
  have hroom := h.repliesRoom
  have hmatched := h.matched
  rw [idle, head, ← List.singleton_append, waitingSeqs_append] at hmatched
  rw [head, ← List.singleton_append, waitingSeqs_append, List.length_append, List.length_append, List.length_singleton] at hroom
  by_cases horigin : q.origin = .entry
  · rw [waitingSeqs_of_entry horigin] at hroom hmatched
    rw [List.length_singleton] at hroom
    exact ⟨h.tableRoom, h.cacheRoom, by show rest.length ≤ 16 + (waitingSeqs rest).length; omega, h.seqs, h.orphans,
      by rw [lineSeqs_of_entry horigin]; exact hmatched⟩
  · rw [waitingSeqs_of_not_entry horigin] at hroom hmatched
    rw [List.length_nil] at hroom
    exact ⟨h.tableRoom, h.cacheRoom, by show rest.length ≤ 16 + (waitingSeqs rest).length; omega, h.seqs, h.orphans,
      by rw [lineSeqs_of_not_entry horigin]; exact hmatched⟩

/-- R154, R156: the SEQ of an entry whose reply has been sent goes from the table to the cache, or nowhere. -/
theorem LinkSound.entrySent (h : LinkSound l) {q : QueuedReply} {cacheable : Bool}
    (sending : l.transmitter = .sendingReply q cacheable) (origin : q.origin = .entry) : LinkSound { l with
      table := removeAnswered q.reply.seq l.table
      cache := if cacheable then cacheAdd l.cache q.reply else l.cache
      transmitter := .idle } := by
  have hmatched := h.matched
  rw [sending, lineSeqs_of_entry origin, List.singleton_append] at hmatched
  have hmem : q.reply.seq ∈ executingSeqs l.table := hmatched.subset List.mem_cons_self
  have hseqs := ((tableSeqs_removeAnswered h.orphans hmem).append_right _).nodup_iff.mp h.seqs
  refine ⟨(removeAnswered_sublist _ _).length_le.trans h.tableRoom, ?_, h.repliesRoom, ?_,
    fun r hr => h.orphans r ((removeAnswered_sublist _ _).subset hr), ?_⟩
  · cases cacheable with
    | true => exact cacheAdd_length q.reply h.cacheRoom
    | false => exact h.cacheRoom
  · cases cacheable with
    | true =>
      refine (((cacheAdd_sublist l.cache q.reply).map _).append_left _).nodup ?_
      rw [List.map_append, ← List.append_assoc]
      exact (List.perm_append_singleton _ _).nodup_iff.mpr hseqs
    | false => exact (List.nodup_cons.mp hseqs).2
  · exact (hmatched.trans (executingSeqs_removeAnswered h.orphans hmem)).cons_inv

/-- R162: a line that carried no entry's reply and carries none. -/
theorem LinkSound.transmitting (h : LinkSound l) (line : lineSeqs l.transmitter = []) {tx : Transmitter}
    (htx : lineSeqs tx = []) : LinkSound { l with transmitter := tx } :=
  ⟨h.tableRoom, h.cacheRoom, h.repliesRoom, h.seqs, h.orphans, by have := h.matched; rwa [line, ← htx] at this⟩

/-- R151: the reply of an accepted Hello joins the cache where no entry that matches holds its SEQ. -/
theorem LinkSound.helloSent (h : LinkSound l) {q : QueuedReply} (sending : l.transmitter = .sendingReply q true)
    (origin : q.origin = .hello) : LinkSound { l with
      cache := if outstandingWith l.table q.reply.seq then cacheRemove l.cache q.reply.seq
        else cacheAdd (cacheRemove l.cache q.reply.seq) q.reply
      transmitter := .idle } := by
  have hline : lineSeqs l.transmitter = [] := by
    rw [sending]
    exact lineSeqs_of_not_entry (by simp [origin]) true
  have hrest := (h.uncached q.reply.seq).transmitting hline (tx := .idle) rfl
  split
  · exact hrest
  · rename_i hout
    have hfree : q.reply.seq ∉ tableSeqs l.table := mt (outstandingWith_iff _ _).mpr hout
    refine ⟨hrest.tableRoom, cacheAdd_length _ hrest.cacheRoom, hrest.repliesRoom, ?_, hrest.orphans, hrest.matched⟩
    refine (((cacheAdd_sublist (cacheRemove l.cache q.reply.seq) q.reply).map _).append_left _).nodup ?_
    rw [List.map_append, ← List.append_assoc]
    refine (List.perm_append_singleton _ _).nodup_iff.mpr (List.nodup_cons.mpr ⟨fun hmem => ?_, hrest.seqs⟩)
    exact (List.mem_append.mp hmem).elim hfree (not_mem_cacheRemove_seqs _ _)

theorem linkSound_afterReset (cause : ResetCause) : LinkSound (.afterReset cause) :=
  ⟨Nat.zero_le _, Nat.zero_le _, Nat.zero_le _, .nil, fun _ hr => (nomatch hr), .nil⟩

theorem LinkMove.sound (h : LinkMove l l') (hl : LinkSound l) : LinkSound l' := by
  cases h with
  | answered q origin room => exact hl.answered (by obtain h | ⟨h, -⟩ := origin <;> simp [h]) room
  | reopened session => exact hl.reopened
  | uncached seq => exact hl.uncached seq
  | admitted r state orphaned session room fresh => exact hl.admitted state orphaned room fresh
  | taken r q oldest origin seq => exact hl.taken oldest origin seq
  | deferred work => exact hl.deferred work
  | finished work st fields => exact hl.finished work st fields
  | begun q rest idle head => exact hl.begun idle head
  | entrySent q cacheable sending origin => exact hl.entrySent sending origin
  | helloSent q sending origin => exact hl.helloSent sending origin
  | lineFreed line => exact hl.transmitting line rfl
  | noticeBegun seq n idle => exact hl.transmitting (by rw [idle]; rfl) rfl
  | reset cause => exact linkSound_afterReset cause
  | _ => exact ⟨hl.tableRoom, hl.cacheRoom, hl.repliesRoom, hl.seqs, hl.orphans, hl.matched⟩

/-- R150: with the session CLOSED there is no entry to take, to answer or to finish. -/
theorem LinkMove.closed (h : LinkMove l l') (hl : l.sessionOpen = false → SessionEmpty l) (hclosed : l'.sessionOpen = false) :
    SessionEmpty l' := by
  cases h with
  | answered q origin room =>
    obtain ⟨htable, hcache, hreplies, hline⟩ := hl hclosed
    refine ⟨htable, hcache, fun p hp => ?_, hline⟩
    obtain hp | hp := List.mem_append.mp hp
    · exact hreplies p hp
    · rw [List.mem_singleton.mp hp]
      exact origin.resolve_right fun h => by cases h.2.symm.trans hclosed
  | opened => cases hclosed
  | reopened session => cases session.symm.trans hclosed
  | uncached seq =>
    have h := hl hclosed
    exact ⟨h.table, by show cacheRemove l.cache seq = []; rw [h.cache]; rfl, h.replies, h.line⟩
  | admitted r state orphaned session room fresh => cases session.symm.trans hclosed
  | taken r q oldest origin seq =>
    rw [(hl hclosed).table] at oldest
    cases oldest
  | deferred work =>
    have h := hl hclosed
    exact ⟨by show markFirst _ _ l.table = []; rw [h.table]; rfl, h.cache, h.replies, h.line⟩
  | finished work st fields =>
    have h := hl hclosed
    refine ⟨by show finishTable work l.table = []; rw [h.table]; rfl, h.cache, ?_, h.line⟩
    show ∀ q ∈ l.replies ++ finishReplies work st fields l.table, q.origin = .forgotten
    rw [h.table]
    simpa [finishReplies] using h.replies
  | begun q rest idle head =>
    have h := hl hclosed
    have hreplies := h.replies
    rw [head] at hreplies
    obtain ⟨hq, hrest⟩ := List.forall_mem_cons.mp hreplies
    exact ⟨h.table, h.cache, hrest, fun p cacheable hp => by cases hp; exact hq⟩
  | entrySent q cacheable sending origin => cases origin.symm.trans ((hl hclosed).line q cacheable sending)
  | helloSent q sending origin => cases origin.symm.trans ((hl hclosed).line q true sending)
  | lineFreed line =>
    have h := hl hclosed
    exact ⟨h.table, h.cache, h.replies, fun _ _ hp => (nomatch hp)⟩
  | noticeBegun seq n idle =>
    have h := hl hclosed
    exact ⟨h.table, h.cache, h.replies, fun _ _ hp => (nomatch hp)⟩
  | reset cause => exact ⟨rfl, rfl, fun _ hq => (nomatch hq), fun _ _ hp => (nomatch hp)⟩
  | _ =>
    have h := hl hclosed
    exact ⟨h.table, h.cache, h.replies, h.line⟩

end

/-! ### Moves one after another -/

/-- The Notice Queue and the Control Line Interface of two states differ by moves alone. -/
structure LineMoves (s t : State) : Prop where
  notices : Relation.ReflTransGen NoticeMove s.notices t.notices
  link : Relation.ReflTransGen LinkMove s.link t.link

/-- What every move keeps, moves one after another keep. -/
theorem kept_of_moves {α : Type} {R : α → α → Prop} {P : α → Prop} (hmove : ∀ {a b}, R a b → P a → P b) {a b : α}
    (h : Relation.ReflTransGen R a b) (ha : P a) : P b := by
  induction h with
  | refl => exact ha
  | tail _ hbc ih => exact hmove hbc ih

section
variable {s t u : State}

theorem LineMoves.of_eq (hnotices : t.notices = s.notices) (hlink : t.link = s.link) : LineMoves s t :=
  ⟨by rw [hnotices], by rw [hlink]⟩

theorem LineMoves.refl (s : State) : LineMoves s s := .of_eq rfl rfl

theorem LineMoves.trans (h : LineMoves s t) (k : LineMoves t u) : LineMoves s u :=
  ⟨h.notices.trans k.notices, h.link.trans k.link⟩

theorem LineMoves.of_notices (hnotices : NoticeMove s.notices t.notices) (hlink : t.link = s.link) : LineMoves s t :=
  ⟨.single hnotices, by rw [hlink]⟩

theorem LineMoves.of_link (hlink : LinkMove s.link t.link) (hnotices : t.notices = s.notices) : LineMoves s t :=
  ⟨by rw [hnotices], .single hlink⟩

theorem LineMoves.foldl {ι : Type} {f : State → ι → State} (h : ∀ s i, LineMoves s (f s i)) (l : List ι) (s : State) :
    LineMoves s (l.foldl f s) := by
  induction l generalizing s with
  | nil => exact .refl s
  | cons i l ih => exact (h s i).trans (ih (f s i))

/-- R146, R149, R166: moves keep the bounds. -/
theorem LineMoves.bounds (h : LineMoves s t) (hnotices : NoticeLaw s) (hcounters : CountersLaw s)
    (hreceiver : receiverSound s.link.receiver) : NoticeLaw t ∧ CountersLaw t ∧ receiverSound t.link.receiver := by
  rw [noticeLaw_iff] at hnotices ⊢
  rw [countersLaw_iff] at hcounters ⊢
  exact ⟨kept_of_moves (P := NoticesSound) NoticeMove.sound h.notices hnotices,
    kept_of_moves (P := linkBounds) LinkMove.bounds h.link ⟨hcounters, hreceiver⟩⟩

/-- R150, R154 to R156, R161: moves keep the Request Table, the reply queue and the Reply Cache matched. -/
theorem LineMoves.sound (h : LineMoves s t) (hlink : LinkLaw s) (hclosed : ClosedLaw s) :
    LinkLaw t ∧ ClosedLaw t ∧ t.link.replies.length ≤ 24 := by
  rw [linkLaw_iff] at hlink ⊢
  rw [closedLaw_iff] at hclosed ⊢
  have hsound := kept_of_moves (P := LinkSound) LinkMove.sound h.link hlink
  have hempty := kept_of_moves (P := fun l => l.sessionOpen = false → SessionEmpty l) LinkMove.closed h.link hclosed
  exact ⟨hsound, hempty, hsound.replies_le⟩

end

end Sys2Proof.Machine
end

section
/-! Every operation of the part is a run of moves of the Control Line and the Notice Queue: first those of the Control Line's own
steps, then those of the Drive Table and the rails, which offer notices and end deferred Halts. -/

namespace Sys2Proof.Machine

section
variable {s t : State} {r : Request}

/-! ### Replies and entries -/

theorem offerNotice_lineMoves (n : Notice) (s : State) : LineMoves s (offerNotice n s) := .of_notices (.offered n) rfl

/-- R161: an immediate answer, forgotten when it has been sent or an accepted Hello's. -/
theorem queueAnswer_lineMoves {q : QueuedReply} {s : State}
    (origin : q.origin = .forgotten ∨ q.origin = .hello ∧ s.link.sessionOpen = true) : LineMoves s (queueAnswer q s) := by
  obtain ⟨hroom, h⟩ | ⟨-, h⟩ := queueAnswer_cases q s
  · rw [h]; exact .of_link (.answered q origin hroom) rfl
  · rw [h]; exact .of_link (.counted _ fun hk => ⟨hk.crc, hk.gap, hk.length, hk.cls, counterUp_le _⟩) rfl

/-- R158: the answer to the entry taken, after an operation that leaves the Control Line Interface. -/
theorem LineMoves.answered {st : Status} {fields : List Byte} {effect : ReplyEffect} (h : LineMoves s t)
    (hlink : t.link = s.link) (hr : oldestWaiting s = some r) : LineMoves s (answerEntry r st fields effect t) := by
  have holdest : t.link.table.find? isWaiting = some r := by
    rw [hlink]
    exact hr
  exact h.trans (.of_link (.taken r (entryReply r st fields effect) holdest rfl rfl) rfl)

/-- R158: the answer to the entry taken, with other blocks changed alone. -/
theorem LineMoves.of_answer {st : Status} {fields : List Byte} {effect : ReplyEffect} (hnotices : t.notices = s.notices)
    (hlink : t.link = s.link) (hr : oldestWaiting s = some r) : LineMoves s (answerEntry r st fields effect t) :=
  .answered (.of_eq hnotices hlink) hlink hr

/-- R158: the deferral of the entry taken, with other blocks changed alone. -/
theorem LineMoves.of_defer {work : Work} (hnotices : t.notices = s.notices) (hlink : t.link = s.link) :
    LineMoves s (deferEntry work t) := .trans (.of_eq hnotices hlink) (.of_link (.deferred work) rfl)

theorem finishWork_lineMoves (work : Work) (st : Status) (fields : List Byte) (s : State) :
    LineMoves s (finishWork work st fields s) := .of_link (.finished work st fields) rfl

/-! ### Hello and admission (R150 to R155) -/

/-- R151: the session opens before its answer is queued. -/
theorem openSession_lineMoves (seq : Byte) (s : State) : LineMoves s (openSession seq s) := by
  have hcleared : LineMoves s { s with link := { s.link with counters := .zero } } :=
    .of_link (.counted .zero fun _ => countersSound_zero) rfl
  have hopened : LineMoves { s with link := { s.link with counters := .zero } }
      { s with link := { s.link with counters := .zero, sessionOpen := true } } := .of_link .opened rfl
  exact hcleared.trans (hopened.trans (queueAnswer_lineMoves (.inr ⟨rfl, rfl⟩)))

/-- R152, R172. -/
theorem reopenSession_lineMoves (seq : Byte) {s : State} (hopen : s.link.sessionOpen = true) :
    LineMoves s (reopenSession seq s) := by
  have hreopened : LineMoves s { s with
      notices := { s.notices with credit := 0 }
      link := { s.link with
        table := reopenTable s.link.transmitter s.link.table, replies := [], cache := [],
        counters := .zero, transmitter := reopenTransmitter s.link.transmitter } } :=
    ⟨.single (.credited 0 (Nat.zero_le _)), .tail (.single (.reopened hopen)) (.counted .zero fun _ => countersSound_zero)⟩
  exact hreopened.trans (queueAnswer_lineMoves (.inr ⟨rfl, hopen⟩))

theorem judgeHello_lineMoves (seq : Byte) (payload : List Byte) (s : State) : LineMoves s (judgeHello seq payload s) := by
  unfold judgeHello
  split
  · exact queueAnswer_lineMoves (.inl rfl)
  · split
    · exact reopenSession_lineMoves seq ‹_›
    · exact openSession_lineMoves seq s

/-- R151 to R153. -/
theorem takeHello_lineMoves (seq : Byte) (retry : Bool) (payload : List Byte) (s : State) :
    LineMoves s (takeHello seq retry payload s) := by
  unfold takeHello
  split
  · exact .refl s
  · split
    · split
      · exact queueAnswer_lineMoves (.inl rfl)
      · exact judgeHello_lineMoves seq payload s
    · exact judgeHello_lineMoves seq payload s

/-- R155: with no cached reply of the SEQ there is none to remove. -/
theorem replaceCached_of_none {seq : Byte} {s : State} (h : cachedReply s.link.cache seq = none) (code : Byte)
    (payload : List Byte) : replaceCached seq code payload s = takeAsNew seq code payload s := by
  unfold replaceCached
  rw [cacheRemove_of_not_mem (cachedReply_eq_none.mp h)]

/-- R155: a request refused for want of room. -/
theorem answerNobuf_lineMoves (seq code : Byte) (s : State) : LineMoves s (answerNobuf seq code s) := by
  have hcounted (u : State) : LineMoves u (countNobuf u) :=
    .of_link (.counted _ fun hk => ⟨hk.crc, hk.gap, hk.length, hk.cls, counterUp_le _⟩) rfl
  unfold answerNobuf
  split
  · rename_i hroom
    exact .trans (t := queueReply (statusAnswer seq code .nobuf) s) (.of_link (.answered _ (.inl rfl) hroom) rfl) (hcounted _)
  · exact hcounted s

/-- R155: a request taken as new, in an OPEN session; an outstanding entry with its SEQ means a cached reply with it. -/
theorem replaceCached_lineMoves {seq : Byte} {s : State} (code : Byte) (payload : List Byte)
    (hopen : s.link.sessionOpen = true) (hfresh : seq ∈ tableSeqs s.link.table → seq ∈ s.link.cache.map (·.seq)) :
    LineMoves s (replaceCached seq code payload s) := by
  unfold replaceCached takeAsNew
  split
  · rename_i hroom
    exact .of_link (.admitted { seq := seq, code := code, payload := payload, state := .waiting, orphaned := false } rfl rfl
      hopen hroom hfresh) rfl
  · exact .trans (t := { s with link := { s.link with cache := cacheRemove s.link.cache seq } })
      (.of_link (.uncached seq) rfl) (answerNobuf_lineMoves seq code _)

theorem takeAsNew_lineMoves {seq : Byte} {s : State} (code : Byte) (payload : List Byte) (hopen : s.link.sessionOpen = true)
    (hcache : cachedReply s.link.cache seq = none) (hout : ¬ outstandingWith s.link.table seq = true) :
    LineMoves s (takeAsNew seq code payload s) := by
  rw [← replaceCached_of_none hcache]
  exact replaceCached_lineMoves code payload hopen fun hmem => absurd ((outstandingWith_iff _ _).mpr hmem) hout

theorem cached_seq_mem {cache : List Reply} {seq : Byte} {p : Reply} (h : cachedReply cache seq = some p) :
    seq ∈ cache.map (·.seq) := by
  obtain ⟨hp, rfl⟩ := cachedReply_eq_some h
  exact List.mem_map_of_mem hp

theorem admitRetry_lineMoves (seq code : Byte) (payload : List Byte) {s : State} (hopen : s.link.sessionOpen = true) :
    LineMoves s (admitRetry seq code payload s) := by
  unfold admitRetry
  split
  · rename_i hcached
    split
    · exact queueAnswer_lineMoves (.inl rfl)
    · exact replaceCached_lineMoves code payload hopen fun _ => cached_seq_mem hcached
  · rename_i hnone
    split
    · exact .refl s
    · exact takeAsNew_lineMoves code payload hopen hnone ‹_›

theorem admitFresh_lineMoves (seq code : Byte) (payload : List Byte) {s : State} (hopen : s.link.sessionOpen = true) :
    LineMoves s (admitFresh seq code payload s) := by
  unfold admitFresh
  split
  · exact queueAnswer_lineMoves (.inl rfl)
  · rename_i hout
    split
    · rename_i hcached
      exact replaceCached_lineMoves code payload hopen fun _ => cached_seq_mem hcached
    · rename_i hnone
      exact takeAsNew_lineMoves code payload hopen hnone hout

/-- R150, R155. -/
theorem takeRequest_lineMoves (seq code : Byte) (retry : Bool) (payload : List Byte) (s : State) :
    LineMoves s (takeRequest seq code retry payload s) := by
  unfold takeRequest
  split
  · rename_i hopen
    split
    · exact admitRetry_lineMoves seq code payload hopen
    · exact admitFresh_lineMoves seq code payload hopen
  · exact queueAnswer_lineMoves (.inl rfl)

/-! ### The receiver (R146 to R148) -/

theorem setReceiver_lineMoves {r : Receiver} {s : State} (sound : receiverSound s.link.receiver → receiverSound r) :
    LineMoves s (setReceiver r s) := .of_link (.received r sound) rfl

theorem hunting_lineMoves (s : State) : LineMoves s (setReceiver .hunt s) := setReceiver_lineMoves fun _ => trivial

theorem testFrame_lineMoves (len : Nat) (held : List Byte) (low high : Byte) (s : State) :
    LineMoves s (testFrame len held low high s) := by
  unfold testFrame
  split
  · split
    · split
      · split
        · exact takeHello_lineMoves _ _ _ s
        · exact takeRequest_lineMoves _ _ _ _ s
      · exact .of_link (.counted _ fun hk => ⟨hk.crc, hk.gap, hk.length, counterUp_le _, hk.nobuf⟩) rfl
    · exact .refl s
  · exact .of_link (.counted _ fun hk => ⟨counterUp_le _, hk.gap, hk.length, hk.cls, hk.nobuf⟩) rfl

/-- R147: the check of a completed frame. -/
theorem checkFrame_lineMoves (s : State) : LineMoves s (checkFrame s) := by
  unfold checkFrame
  split
  · exact (hunting_lineMoves s).trans (testFrame_lineMoves _ _ _ _ _)
  · exact .refl s

theorem huntByte_lineMoves (value : Byte) (s : State) : LineMoves s (huntByte value s) := by
  unfold huntByte
  split
  · exact setReceiver_lineMoves fun _ => trivial
  · exact .refl s

/-- R146: LEN fits, or the frame is discarded and counted. -/
theorem lengthKnown_lineMoves (len : Nat) (s : State) : LineMoves s (lengthKnown len s) := by
  unfold lengthKnown
  split
  · rename_i hlen
    exact setReceiver_lineMoves fun _ => ⟨hlen.1, hlen.2, by simp only [List.length_nil]; omega⟩
  · exact (hunting_lineMoves s).trans
      (.of_link (.counted _ fun hk => ⟨hk.crc, hk.gap, counterUp_le _, hk.cls, hk.nobuf⟩) rfl)

/-- R146: a byte of the body: below LEN bytes the receiver stays in BODY, at LEN it takes CHECK. -/
theorem receiverSound_bodyHeld {len : Nat} {held : List Byte} (value : Byte) (h : receiverSound (.body len held)) :
    receiverSound (bodyHeld len (held ++ [value])) := by
  obtain ⟨hlow, hhigh, hheld⟩ := h
  have hlength : (held ++ [value]).length = held.length + 1 := List.length_append
  unfold bodyHeld
  split
  · exact ⟨hlow, hhigh, ‹_›⟩
  · exact ⟨hlow, hhigh, by omega⟩

/-- R146: a received byte. -/
theorem takeByte_lineMoves (value : Byte) (s : State) : LineMoves s (takeByte value s) := by
  unfold takeByte
  split
  case h_1 => exact huntByte_lineMoves value s
  case h_2 => exact setReceiver_lineMoves fun _ => trivial
  case h_3 => exact lengthKnown_lineMoves _ s
  case h_4 len held hreceiver =>
    exact setReceiver_lineMoves fun h => receiverSound_bodyHeld value (by rwa [hreceiver] at h)
  case h_5 len held hreceiver => exact setReceiver_lineMoves fun h => by rwa [hreceiver] at h
  case h_6 len held low hreceiver => exact setReceiver_lineMoves fun h => by rwa [hreceiver] at h
  case h_7 => exact (checkFrame_lineMoves s).trans (huntByte_lineMoves value _)

/-! ### The transmitter (R162) -/

/-- R154, R156, R162: a reply sent is settled by whose it is, and the line is free. -/
theorem settled_lineMoves {q : QueuedReply} {cacheable : Bool} {s : State}
    (sending : s.link.transmitter = .sendingReply q cacheable) :
    LineMoves s (setTransmitter .idle (settleReply q cacheable s)) := by
  have hfreed (h : q.origin ≠ .entry) : LineMoves s (setTransmitter .idle s) :=
    .of_link (.lineFreed (by rw [sending]; exact lineSeqs_of_not_entry h cacheable)) rfl
  unfold settleReply
  split
  · exact .of_link (.entrySent q cacheable sending ‹_›) rfl
  · rename_i horigin
    split
    · rename_i hcacheable
      exact .of_link (.helloSent q (hcacheable ▸ sending) horigin) rfl
    · exact hfreed (by simp [horigin])
  · rename_i horigin
    exact hfreed (by simp [horigin])

theorem restartTakesEffect_lineMoves (s : State) : LineMoves s (restartTakesEffect s) :=
  ⟨.single .reset, .single (.reset .restart)⟩

/-- R144, R160, R162. -/
theorem replyEffect_lineMoves (effect : ReplyEffect) (s : State) : LineMoves s (replyEffect effect s) := by
  have hrate (baud : Nat) (u : State) : LineMoves u (changeLineRate baud u) :=
    ⟨.refl, .tail (.single (.received .hunt fun _ => trivial)) (.unwatched baud u.link.restartTaken u.link.straddling)⟩
  unfold replyEffect
  split
  · exact .refl s
  · exact (checkFrame_lineMoves s).trans (hrate _ _)
  · exact restartTakesEffect_lineMoves s

/-! ### Starts and the ends of slots -/

theorem setBank_lineMoves (bank : BankId) (v : Bank) (s : State) : LineMoves s (setBank bank v s) := by
  cases bank <;> exact .of_eq rfl rfl

theorem setBank_link (bank : BankId) (v : Bank) (s : State) : (setBank bank v s).link = s.link := by cases bank <;> rfl

theorem setBank_notices (bank : BankId) (v : Bank) (s : State) : (setBank bank v s).notices = s.notices := by
  cases bank <;> rfl

theorem releaseBank_lineMoves (bank : BankId) (s : State) : LineMoves s (releaseBank bank s) := by
  unfold releaseBank
  dsimp only
  split
  · exact (setBank_lineMoves _ _ _).trans (offerNotice_lineMoves _ _)
  · exact setBank_lineMoves _ _ _

/-- R46: arming offers Update Started, if asked. -/
theorem arm_lineMoves (i : Fin 8) (x : Entry) (d : StartData) (s : State) : LineMoves s (arm i x d s) := by
  have hlink := driveFrame_link (arm_driveFrame i x d s)
  have hnotices := arm_notices i x d s
  split at hnotices
  · exact .of_notices (hnotices ▸ .offered _) hlink
  · exact .of_eq hnotices hlink

theorem startEntry_lineMoves (older younger : List Entry) (x : Entry) (s : State) :
    LineMoves s (startEntry older x younger s) := by
  unfold startEntry
  split
  · exact .refl s
  · split
    · exact .trans (t := { s with queue := older ++ younger }) (.of_eq rfl rfl) (arm_lineMoves _ _ _ _)
    · exact .of_notices (.offered _) rfl

/-- R27: an evaluation of starts. -/
theorem evaluateStarts_lineMoves (s : State) : LineMoves s (evaluateStarts s) :=
  evaluateUpTo_induction (P := LineMoves s) (fun t older younger x _ _ h => h.trans (startEntry_lineMoves older younger x t))
    _ s (.refl s)

theorem completeSlot_lineMoves (i : Fin 8) (u : Update) (s : State) : LineMoves s (completeSlot i u s) :=
  .trans (t := setSlot i .free (showTarget u.rect.val s)) (.of_eq rfl rfl)
    ((offerNotice_lineMoves _ _).trans (releaseBank_lineMoves _ _))

theorem abortSlot_lineMoves (result : EndResult) (s : State) (i : Fin 8) : LineMoves s (abortSlot result s i) := by
  unfold abortSlot
  split
  · exact .refl s
  · exact .trans (.of_eq (clearSlot_notices i s) (driveFrame_link (clearSlot_driveFrame i s)))
      ((offerNotice_lineMoves _ _).trans (releaseBank_lineMoves _ _))

theorem abortAll_lineMoves (result : EndResult) (s : State) : LineMoves s (abortAll result s) :=
  .foldl (abortSlot_lineMoves result) slotNumbers s

theorem abortUnlessOn_lineMoves (s : State) : LineMoves s (abortUnlessOn s) := by
  have harmed (s : State) (i : Fin 8) : LineMoves s (abortIfArmed s i) := by
    unfold abortIfArmed
    split
    · exact .refl s
    · exact abortSlot_lineMoves _ s i
    · exact .refl s
  unfold abortUnlessOn
  split
  · exact .refl s
  · exact .foldl harmed slotNumbers s

theorem advanceSlot_lineMoves (s : State) (i : Fin 8) : LineMoves s (advanceSlot s i) := by
  unfold advanceSlot
  split
  · exact .refl s
  · exact .of_eq rfl rfl
  · split
    · exact completeSlot_lineMoves _ _ _
    · exact .of_eq rfl rfl

/-! ### Boundaries, the rails and halts -/

theorem haltedIfIdle_lineMoves (s : State) : LineMoves s (haltedIfIdle s) := by
  obtain ⟨-, -, h⟩ | ⟨-, h⟩ := haltedIfIdle_cases s
  · rw [h]; exact .trans (t := { s with halt := .halted }) (.of_eq rfl rfl) (finishWork_lineMoves _ _ _ _)
  · rw [h]; exact .refl s

/-- R47, R55. -/
theorem advanceSlots_lineMoves (s : State) : LineMoves s (advanceSlots s) := by
  unfold advanceSlots
  split
  · exact .foldl advanceSlot_lineMoves slotNumbers s
  · exact (abortAll_lineMoves _ s).trans (haltedIfIdle_lineMoves _)
  · exact .refl s

theorem demandEndsInOn_lineMoves (s : State) : LineMoves s (demandEndsInOn s) := by
  unfold demandEndsInOn
  dsimp only
  split <;> exact .of_eq rfl rfl

theorem judgeDemandEnd_lineMoves (s : State) : LineMoves s (judgeDemandEnd s) := by
  unfold judgeDemandEnd
  split
  · exact demandEndsInOn_lineMoves s
  · exact .refl s

/-- R108: a frame boundary. -/
theorem deliverBoundary_lineMoves (s : State) : LineMoves s (deliverBoundary s) :=
  (advanceSlots_lineMoves s).trans ((evaluateStarts_lineMoves _).trans
    (.trans (t := scheduleBoundary (evaluateStarts (advanceSlots s))) (.of_eq rfl rfl) (judgeDemandEnd_lineMoves _)))

/-- R98: entry into ON. -/
theorem enterOn_lineMoves (s : State) : LineMoves s (enterOn s) := by
  have hon : LineMoves s (railsOn s) := .of_eq rfl rfl
  unfold enterOn
  split
  · exact hon.trans (deliverBoundary_lineMoves _)
  · exact hon.trans (demandEndsInOn_lineMoves _)

theorem enterRising_lineMoves (s : State) : LineMoves s (enterRising s) := by
  have hrising : LineMoves s (railsRising s) := .of_eq rfl rfl
  unfold enterRising
  split
  · exact hrising.trans (enterOn_lineMoves _)
  · exact hrising

theorem demandAppears_lineMoves (s : State) : LineMoves s (demandAppears s) := by
  unfold demandAppears
  split
  case h_1 => exact enterRising_lineMoves s
  case h_4 => exact enterOn_lineMoves s
  all_goals exact .refl s

/-- R94: an evaluation away from a boundary. -/
theorem evaluate_lineMoves (s : State) : LineMoves s (evaluate s) := by
  unfold evaluate
  split
  · exact (evaluateStarts_lineMoves s).trans (demandAppears_lineMoves _)
  · exact evaluateStarts_lineMoves s

theorem LineMoves.evaluated (h : LineMoves s t) : LineMoves s (evaluate t) := h.trans (evaluate_lineMoves t)

/-- R103: entry into FAULT. -/
theorem enterFault_lineMoves (cause : FaultCause) (s : State) : LineMoves s (enterFault cause s) :=
  .trans (t := offerNotice (.railFault cause s.rails.state)
      { s with rails := { Rails.reset with state := .fault, faultCause := some cause }, frameTimer := .stopped })
    (.of_notices (.offered _) rfl) ((abortAll_lineMoves _ _).trans (haltedIfIdle_lineMoves _))

theorem fastFallRequest_lineMoves (s : State) : LineMoves s (fastFallRequest s) := by
  unfold fastFallRequest
  split <;> exact .of_eq rfl rfl

theorem flushIfAsked_lineMoves (flush : Bool) (s : State) : LineMoves s (flushIfAsked flush s) := by
  unfold flushIfAsked
  split
  · exact .trans (t := { s with queue := [] }) (.of_eq rfl rfl) (.foldl (fun _ _ => offerNotice_lineMoves _ _) s.queue _)
  · exact .refl s

theorem fastFallRequest_link (s : State) : (fastFallRequest s).link = s.link := by
  unfold fastFallRequest
  split <;> rfl

theorem beginHalt_lineMoves (flush : Bool) (s : State) : LineMoves s (beginHalt flush s) := by
  have hdeferred : LineMoves s (deferEntry .halt { s with halt := .halting }) := .of_defer rfl rfl
  exact hdeferred.trans ((flushIfAsked_lineMoves flush _).trans ((fastFallRequest_lineMoves _).trans
    ((abortUnlessOn_lineMoves _).trans (haltedIfIdle_lineMoves _))))

theorem losePower_lineMoves (s : State) : LineMoves s (losePower s) := by
  unfold losePower loseSettling
  split
  case h_2 =>
    split
    · split
      · exact enterFault_lineMoves _ s
      · exact .of_eq rfl rfl
    · exact .refl s
  case h_3 | h_4 => exact enterFault_lineMoves _ s
  all_goals exact .refl s

theorem fallEnds_lineMoves (s : State) : LineMoves s (fallEnds s) := by
  have hoff : LineMoves s { s with rails := { s.rails with state := .off, fallTimer := none } } := .of_eq rfl rfl
  unfold fallEnds
  dsimp only
  split
  · exact hoff.trans (enterRising_lineMoves _)
  · exact hoff

/-! ### The Temperature Monitor -/

theorem setReading_lineMoves (value : Int) (s : State) : LineMoves s (setReading value s) := by
  unfold setReading
  dsimp only
  split
  · exact .of_eq rfl rfl
  · exact .evaluated (.of_eq rfl rfl)

theorem ageReading_lineMoves (g : Reading) (s : State) : LineMoves s (ageReading g s) := by
  unfold ageReading
  dsimp only
  split
  · exact .of_notices (.offered _) rfl
  · exact .of_eq rfl rfl

/-- R88, R90: what a new parameter brings about. -/
theorem parameterActs_lineMoves (q : ParamId) (before s : State) : LineMoves s (parameterActs q before s) := by
  unfold parameterActs limitChanged
  split
  · rw [sourceChanged_eq]
    exact .of_eq rfl rfl
  · split
    · exact .refl s
    · split
      · exact offerNotice_lineMoves _ s
      · split
        · exact evaluate_lineMoves s
        · exact .refl s
  · exact .refl s

end

end Sys2Proof.Machine
end

section
/-! Every command is a run of moves of the Control Line and the Notice Queue, and so keeps their bounds and their law (R146, R149,
R150, R154 to R156, R161, R166, R169). -/

namespace Sys2Proof.Machine

/-! ### Requests -/

section
variable {s : State} {r : Request}

/-- R158: a taking does what the request does to the entry taken. -/
theorem dispatch_lineMoves (code : RequestCode) {run : Request → State → State}
    (h : ∀ r, oldestWaiting s = some r → LineMoves s (run r s)) : LineMoves s (dispatch code run s) := by
  obtain e | ⟨r, htakes, e⟩ := dispatch_cases code run s
  · rw [e]; exact .refl s
  · rw [e]; exact h r (nextRequest_eq_some htakes.1).2.2.1

theorem answered_lineMoves {st : Status} {fields : List Byte} {effect : ReplyEffect} (hr : oldestWaiting s = some r) :
    LineMoves s (answerEntry r st fields effect s) := .of_answer rfl rfl hr

/-- R158: an answer after work on a bank. -/
theorem LineMoves.of_bank {st : Status} {fields : List Byte} (bank : BankId) (v : Bank) (hr : oldestWaiting s = some r) :
    LineMoves s (answerEntry r st fields .nothing (setBank bank v s)) :=
  .of_answer (setBank_notices bank v s) (setBank_link bank v s) hr

variable (hr : oldestWaiting s = some r)
include hr

theorem reportStatus_lineMoves : LineMoves s (reportStatus r s) := by
  unfold reportStatus
  split <;> exact answered_lineMoves hr

theorem reportParameter_lineMoves : LineMoves s (reportParameter r s) := by
  unfold reportParameter
  split <;> exact answered_lineMoves hr

/-- R177. -/
theorem setParameter_lineMoves : LineMoves s (setParameter r s) := by
  unfold setParameter changeParameter
  split
  · exact answered_lineMoves hr
  · split
    · exact answered_lineMoves hr
    · refine .trans ?_ (parameterActs_lineMoves _ _ _)
      exact .of_answer rfl rfl hr

/-- R182: the Restart interval begins with the reply. -/
theorem takeRestart_lineMoves : LineMoves s (takeRestart r s) := by
  unfold takeRestart
  split
  · exact answered_lineMoves hr
  · exact (answered_lineMoves hr).trans (.of_link (.unwatched s.link.lineRate true s.link.straddling) rfl)

/-- R170. -/
theorem grant_lineMoves : LineMoves s (grant r s) := by
  unfold grant
  split
  · exact answered_lineMoves hr
  · exact .answered (.of_notices (.credited _ (Nat.min_le_left _ _)) rfl) rfl hr

theorem submitUpdate_lineMoves : LineMoves s (submitUpdate r s) := by
  unfold submitUpdate
  split
  · exact answered_lineMoves hr
  · split
    · exact answered_lineMoves hr
    · exact .evaluated (.of_answer rfl rfl hr)

theorem cancelUpdate_lineMoves : LineMoves s (cancelUpdate r s) := by
  unfold cancelUpdate
  split
  · exact answered_lineMoves hr
  · split
    · exact .evaluated (.answered (.of_notices (.offered _) rfl) rfl hr)
    · split <;> exact answered_lineMoves hr

theorem queryUpdate_lineMoves : LineMoves s (queryUpdate r s) := by
  unfold queryUpdate
  split <;> exact answered_lineMoves hr

/-- R54, R57. -/
theorem takeHalt_lineMoves : LineMoves s (takeHalt r s) := by
  unfold takeHalt haltAgain
  split
  · exact answered_lineMoves hr
  · rename_i flush _
    split
    · exact beginHalt_lineMoves _ s
    · exact beginHalt_lineMoves _ s
    · exact .answered ((flushIfAsked_lineMoves flush s).trans (fastFallRequest_lineMoves _))
        ((fastFallRequest_link _).trans (driveFrame_link (flushIfAsked_frame flush s).1)) hr

/-- R58. -/
theorem takeResume_lineMoves : LineMoves s (takeResume r s) := by
  unfold takeResume
  split
  · exact answered_lineMoves hr
  · split
    · exact answered_lineMoves hr
    · exact answered_lineMoves hr
    · exact .evaluated (.of_answer rfl rfl hr)

theorem openBank_lineMoves : LineMoves s (openBank r s) := by
  unfold openBank
  split
  · exact answered_lineMoves hr
  · split
    case h_1 | h_2 | h_3 => exact .of_bank _ _ hr
    all_goals exact answered_lineMoves hr

theorem storeBankData_lineMoves : LineMoves s (storeBankData r s) := by
  unfold storeBankData
  split
  · exact answered_lineMoves hr
  · split
    case h_1 => exact .of_bank _ _ hr
    all_goals exact answered_lineMoves hr

theorem beginVerify_lineMoves : LineMoves s (beginVerify r s) := by
  unfold beginVerify
  split
  · exact answered_lineMoves hr
  · split
    case h_1 =>
      split
      · exact answered_lineMoves hr
      · exact .of_defer (setBank_notices _ _ s) (setBank_link _ _ s)
    all_goals exact answered_lineMoves hr

theorem takeActivate_lineMoves : LineMoves s (takeActivate r s) := by
  have hnotices (bank : BankId) : (activateBank bank s).notices = s.notices :=
    (setBank_notices _ _ _).trans (setBank_notices _ _ s)
  have hlink (bank : BankId) : (activateBank bank s).link = s.link := (setBank_link _ _ _).trans (setBank_link _ _ s)
  unfold takeActivate
  split
  · exact answered_lineMoves hr
  · split
    case h_5 | h_6 => exact .of_answer (hnotices _) (hlink _) hr
    all_goals exact answered_lineMoves hr

theorem eraseBank_lineMoves : LineMoves s (eraseBank r s) := by
  unfold eraseBank
  split
  · exact answered_lineMoves hr
  · split
    case h_2 | h_3 => exact .of_bank _ _ hr
    all_goals exact answered_lineMoves hr

/-- R85. -/
theorem reportTemperature_lineMoves : LineMoves s (reportTemperature r s) := by
  unfold reportTemperature
  split
  · exact answered_lineMoves hr
  · split
    · exact answered_lineMoves hr
    · exact (answered_lineMoves hr).trans (setReading_lineMoves _ _)

/-- R106. -/
theorem clearFault_lineMoves : LineMoves s (clearFault r s) := by
  unfold clearFault
  split
  · exact answered_lineMoves hr
  · split
    · exact .evaluated (.of_answer rfl rfl hr)
    · exact answered_lineMoves hr

theorem takeLoadOpen_lineMoves : LineMoves s (takeLoadOpen r s) := by
  unfold takeLoadOpen
  split
  · exact answered_lineMoves hr
  · split
    · exact .of_answer rfl rfl hr
    · exact .evaluated (.of_answer rfl rfl hr)

theorem takeLoadData_lineMoves : LineMoves s (takeLoadData r s) := by
  unfold takeLoadData
  split
  · exact answered_lineMoves hr
  · split
    · exact answered_lineMoves hr
    · exact .of_answer rfl rfl hr

theorem takeLoadClose_lineMoves : LineMoves s (takeLoadClose r s) := by
  unfold takeLoadClose
  split
  · exact answered_lineMoves hr
  · split
    · exact answered_lineMoves hr
    · exact .evaluated ((answered_lineMoves hr).trans (.of_eq rfl rfl))

theorem takeReadPixels_lineMoves : LineMoves s (takeReadPixels r s) := by
  unfold takeReadPixels
  split <;> exact answered_lineMoves hr

theorem takeJob_lineMoves (kind : JobKind) : LineMoves s (takeJob r kind s) := by
  unfold takeJob
  split
  · exact answered_lineMoves hr
  · split
    · exact answered_lineMoves hr
    · exact .of_defer rfl rfl

theorem takeFill_lineMoves : LineMoves s (takeFill r s) := by
  unfold takeFill
  split
  · exact answered_lineMoves hr
  · exact takeJob_lineMoves hr _

theorem takeCopy_lineMoves : LineMoves s (takeCopy r s) := by
  unfold takeCopy
  split
  · exact answered_lineMoves hr
  · exact takeJob_lineMoves hr _

end

/-! ### The Control Line's own steps -/

section
variable (s : State)

theorem execFrame_lineMoves : holdsAfter (LineMoves s) (execFrame s) := by
  unfold execFrame
  split
  · exact checkFrame_lineMoves s
  · exact .refl s

theorem execHello_lineMoves : holdsAfter (LineMoves s) (execHello s) := by
  unfold execHello
  split
  · exact checkFrame_lineMoves s
  · exact .refl s

/-- R148. -/
theorem execGapTimeout_lineMoves : holdsAfter (LineMoves s) (execGapTimeout s) := by
  have hcounted : LineMoves s (countGapError (setReceiver .hunt s)) :=
    (hunting_lineMoves s).trans (.of_link (.counted _ fun hk => ⟨hk.crc, counterUp_le _, hk.length, hk.cls, hk.nobuf⟩) rfl)
  unfold execGapTimeout
  split
  · split
    case h_1 | h_2 => exact .refl s
    all_goals exact hcounted
  · exact .refl s

theorem execUnknownCode_lineMoves : holdsAfter (LineMoves s) (execUnknownCode s) := by
  unfold execUnknownCode
  split
  · exact .refl s
  · rename_i r hnext
    split
    · exact answered_lineMoves (nextRequest_eq_some hnext).2.2.1
    · exact .refl s

theorem execReceivedByte_lineMoves (value : Byte) : holdsAfter (LineMoves s) (execReceivedByte value s) := by
  unfold execReceivedByte
  split
  · split
    · exact .of_link (.unwatched s.link.lineRate s.link.restartTaken false) rfl
    · exact takeByte_lineMoves value s
  · exact .refl s

theorem execReplyBegin_lineMoves : holdsAfter (LineMoves s) (execReplyBegin s) := by
  unfold execReplyBegin
  split
  · rename_i q rest _ hidle hreplies
    exact .of_link (.begun q rest hidle hreplies) rfl
  · exact .refl s

theorem execReplySent_lineMoves : holdsAfter (LineMoves s) (execReplySent s) := by
  unfold execReplySent
  split
  · rename_i q cacheable hsending
    exact (settled_lineMoves hsending).trans (replyEffect_lineMoves _ _)
  · exact .refl s
  · exact .refl s

/-- R171. -/
theorem execNoticeBegin_lineMoves : holdsAfter (LineMoves s) (execNoticeBegin s) := by
  unfold execNoticeBegin
  split
  · rename_i n rest _ hidle _ hitems
    split
    · exact ⟨.single (.taken n rest hitems), .single (.noticeBegun s.notices.seqCounter n hidle)⟩
    · exact .refl s
  · exact .refl s

theorem execNoticeSent_lineMoves : holdsAfter (LineMoves s) (execNoticeSent s) := by
  unfold execNoticeSent
  split
  · rename_i seq n hsending
    exact .of_link (.lineFreed (by rw [hsending]; rfl)) rfl
  · exact .refl s
  · exact .refl s

/-! ### The other events -/

theorem execJobCompletion_lineMoves : holdsAfter (LineMoves s) (execJobCompletion s) := by
  unfold execJobCompletion
  split
  · exact .refl s
  · rename_i j rest _
    split
    · exact .refl s
    · rename_i image _
      exact .evaluated (.trans (t := finishJob j rest image s) (.of_eq rfl rfl) (finishWork_lineMoves _ _ _ _))

theorem execVerificationComplete_lineMoves (bank : BankId) :
    holdsAfter (LineMoves s) (execVerificationComplete bank s) := by
  unfold execVerificationComplete
  split
  · exact (setBank_lineMoves _ _ s).trans (finishWork_lineMoves _ _ _ _)
  · exact .refl s

theorem execFrameBoundary_lineMoves : holdsAfter (LineMoves s) (execFrameBoundary s) := by
  unfold execFrameBoundary
  split
  · exact .refl s
  · exact deliverBoundary_lineMoves s

theorem execPowerGoodAssert_lineMoves : holdsAfter (LineMoves s) (execPowerGoodAssert s) := by
  unfold execPowerGoodAssert
  split
  · exact .refl s
  · split <;> exact .of_eq rfl rfl

theorem execPowerGoodLoss_lineMoves : holdsAfter (LineMoves s) (execPowerGoodLoss s) := by
  have hlow : LineMoves s { s with powerGood := false } := .of_eq rfl rfl
  unfold execPowerGoodLoss
  split
  · split
    · exact hlow.trans (losePower_lineMoves _)
    · exact hlow
  · exact .refl s

theorem execRiseTimerExpiry_lineMoves : holdsAfter (LineMoves s) (execRiseTimerExpiry s) := by
  unfold execRiseTimerExpiry
  split
  · split
    · exact .of_eq rfl rfl
    · exact enterFault_lineMoves _ s
  · exact .refl s

theorem execSettleTimerExpiry_lineMoves : holdsAfter (LineMoves s) (execSettleTimerExpiry s) := by
  unfold execSettleTimerExpiry
  split
  · exact enterOn_lineMoves s
  · exact .refl s

theorem execHoldTimerExpiry_lineMoves : holdsAfter (LineMoves s) (execHoldTimerExpiry s) := by
  unfold execHoldTimerExpiry
  split <;> exact .of_eq rfl rfl

theorem execFallTimerExpiry_lineMoves : holdsAfter (LineMoves s) (execFallTimerExpiry s) := by
  unfold execFallTimerExpiry
  split
  · exact fallEnds_lineMoves s
  · exact .refl s

theorem execConversionStart_lineMoves : holdsAfter (LineMoves s) (execConversionStart s) := by
  unfold execConversionStart
  split <;> exact .of_eq rfl rfl

theorem execConversionComplete_lineMoves (result : SensorResult) :
    holdsAfter (LineMoves s) (execConversionComplete result s) := by
  unfold execConversionComplete
  split
  · split
    · exact .trans (t := { s with temp := { s.temp with converting := false } }) (.of_eq rfl rfl) (setReading_lineMoves _ _)
    · exact .refl s
  · trivial

theorem execAgeRise_lineMoves : holdsAfter (LineMoves s) (execAgeRise s) := by
  unfold execAgeRise
  split
  · exact .refl s
  · exact ageReading_lineMoves _ s

theorem execReadingBecomesStale_lineMoves : holdsAfter (LineMoves s) (execReadingBecomesStale s) := by
  unfold execReadingBecomesStale
  split
  · exact .refl s
  · split
    · exact ageReading_lineMoves _ s
    · exact .refl s

theorem execJobWritesPixel_lineMoves : holdsAfter (LineMoves s) (execJobWritesPixel s) := by
  unfold execJobWritesPixel
  split
  · exact .refl s
  · split
    · exact .refl s
    · split <;> exact .of_eq rfl rfl

theorem execPinReset_lineMoves : holdsAfter (LineMoves s) (execPinReset s) :=
  ⟨.single .reset, .single (.reset .pin)⟩

theorem execStartUp_lineMoves : holdsAfter (LineMoves s) (execStartUp s) := by
  unfold execStartUp
  split <;> exact .of_eq rfl rfl

/-- R185. -/
theorem execStartUpEnd_lineMoves : holdsAfter (LineMoves s) (execStartUpEnd s) := by
  unfold execStartUpEnd
  split
  · exact .refl s
  · exact ⟨.refl, .tail (.single (.received .hunt fun _ => trivial)) (.unwatched s.link.lineRate s.link.restartTaken _)⟩
  · exact .refl s

/-! ### Every command -/

/-- Every command is a run of moves. -/
theorem exec_lineMoves (c : Instr) : holdsAfter (LineMoves s) (exec c s) := by
  cases c with
  | frame => exact execFrame_lineMoves s
  | gapTimeout => exact execGapTimeout_lineMoves s
  | hello => exact execHello_lineMoves s
  | unknownCode => exact execUnknownCode_lineMoves s
  | getStatus => exact dispatch_lineMoves _ fun _ => reportStatus_lineMoves
  | getParameter => exact dispatch_lineMoves _ fun _ => reportParameter_lineMoves
  | setParameter => exact dispatch_lineMoves _ fun _ => setParameter_lineMoves
  | restart => exact dispatch_lineMoves _ fun _ => takeRestart_lineMoves
  | grantNotices => exact dispatch_lineMoves _ fun _ => grant_lineMoves
  | submitUpdate => exact dispatch_lineMoves _ fun _ => submitUpdate_lineMoves
  | cancelUpdate => exact dispatch_lineMoves _ fun _ => cancelUpdate_lineMoves
  | queryUpdate => exact dispatch_lineMoves _ fun _ => queryUpdate_lineMoves
  | halt => exact dispatch_lineMoves _ fun _ => takeHalt_lineMoves
  | resume => exact dispatch_lineMoves _ fun _ => takeResume_lineMoves
  | bankOpen => exact dispatch_lineMoves _ fun _ => openBank_lineMoves
  | bankData => exact dispatch_lineMoves _ fun _ => storeBankData_lineMoves
  | bankVerify => exact dispatch_lineMoves _ fun _ => beginVerify_lineMoves
  | bankActivate => exact dispatch_lineMoves _ fun _ => takeActivate_lineMoves
  | bankErase => exact dispatch_lineMoves _ fun _ => eraseBank_lineMoves
  | temperatureReport => exact dispatch_lineMoves _ fun _ => reportTemperature_lineMoves
  | clearFault => exact dispatch_lineMoves _ fun _ => clearFault_lineMoves
  | loadOpen => exact dispatch_lineMoves _ fun _ => takeLoadOpen_lineMoves
  | loadData => exact dispatch_lineMoves _ fun _ => takeLoadData_lineMoves
  | loadClose => exact dispatch_lineMoves _ fun _ => takeLoadClose_lineMoves
  | readPixels => exact dispatch_lineMoves _ fun _ => takeReadPixels_lineMoves
  | fill => exact dispatch_lineMoves _ fun _ => takeFill_lineMoves
  | copy => exact dispatch_lineMoves _ fun _ => takeCopy_lineMoves
  | jobCompletion => exact execJobCompletion_lineMoves s
  | verificationComplete bank => exact execVerificationComplete_lineMoves s bank
  | frameBoundary => exact execFrameBoundary_lineMoves s
  | powerGoodAssert => exact execPowerGoodAssert_lineMoves s
  | powerGoodLoss => exact execPowerGoodLoss_lineMoves s
  | riseTimerExpiry => exact execRiseTimerExpiry_lineMoves s
  | settleTimerExpiry => exact execSettleTimerExpiry_lineMoves s
  | holdTimerExpiry => exact execHoldTimerExpiry_lineMoves s
  | fallTimerExpiry => exact execFallTimerExpiry_lineMoves s
  | conversionStart => exact execConversionStart_lineMoves s
  | conversionComplete result => exact execConversionComplete_lineMoves s result
  | ageRise => exact execAgeRise_lineMoves s
  | readingBecomesStale => exact execReadingBecomesStale_lineMoves s
  | replyBegin => exact execReplyBegin_lineMoves s
  | replySent => exact execReplySent_lineMoves s
  | noticeBegin => exact execNoticeBegin_lineMoves s
  | noticeSent => exact execNoticeSent_lineMoves s
  | pinReset => exact execPinReset_lineMoves s
  | startUp => exact execStartUp_lineMoves s
  | startUpEnd => exact execStartUpEnd_lineMoves s
  | receivedByte value => exact execReceivedByte_lineMoves s value
  | jobWritesPixel => exact execJobWritesPixel_lineMoves s

end

/-- A step is a run of moves. -/
theorem step_lineMoves {s t : State} (h : step s = .next t) : LineMoves s t := by
  obtain rfl | ⟨c, rest, -, hexec⟩ := step_cases h
  · exact .refl t
  · have hmoves := holdsAfter_next (exec_lineMoves { s with pending := rest } c) hexec
    exact .trans (t := { s with pending := rest }) (.of_eq rfl rfl) hmoves

/-- Settles O59: a step is a run of moves, and each move keeps the bounds. -/
theorem stepKeepsTheBounds : Obligations.StepKeepsTheBounds :=
  fun _ _ hnotices hcounters hreceiver hstep => (step_lineMoves hstep).bounds hnotices hcounters hreceiver

/-- Settles O60: a step is a run of moves, and each move keeps the table, the replies and the cache matched. -/
theorem stepKeepsTheLinkLaw : Obligations.StepKeepsTheLinkLaw :=
  fun _ _ hlink hclosed hstep => (step_lineMoves hstep).sound hlink hclosed

end Sys2Proof.Machine
end

section
/-! The receiver byte by byte (R143, R145, R146, R184, R185, R187, R188), and the damaged frames it counts (R147 to R149). -/

namespace Sys2Proof.Machine

/-! ### Received bytes (R146) -/

section
variable {s : State} {len : Nat} {held : List Byte} {low : Byte}

theorem takeByte_hunt (h : s.link.receiver = .hunt) (v : Byte) : takeByte v s = huntByte v s := by
  unfold takeByte
  rw [h]

theorem takeByte_length (h : s.link.receiver = .length none) (v : Byte) :
    takeByte v s = setReceiver (.length (some v)) s := by
  unfold takeByte
  rw [h]

theorem takeByte_length_low (h : s.link.receiver = .length (some low)) (v : Byte) :
    takeByte v s = lengthKnown (low.toNat + 256 * v.toNat) s := by
  unfold takeByte
  rw [h]

theorem takeByte_body (h : s.link.receiver = .body len held) (v : Byte) :
    takeByte v s = setReceiver (bodyHeld len (held ++ [v])) s := by
  unfold takeByte
  rw [h]

theorem takeByte_check (h : s.link.receiver = .check len held none) (v : Byte) :
    takeByte v s = setReceiver (.check len held (some v)) s := by
  unfold takeByte
  rw [h]

theorem takeByte_check_low (h : s.link.receiver = .check len held (some low)) (v : Byte) :
    takeByte v s = setReceiver (.complete len held low v) s := by
  unfold takeByte
  rw [h]

theorem takeByte_complete {high : Byte} (h : s.link.receiver = .complete len held low high) (v : Byte) :
    takeByte v s = huntByte v (checkFrame s) := by
  unfold takeByte
  rw [h]

/-- R146: BODY, or CHECK when the byte is the last of LEN. -/
theorem bodyHeld_append (len : Nat) (held : List Byte) (v : Byte) : bodyHeld len (held ++ [v]) =
    if held.length + 1 < len then .body len (held ++ [v]) else .check len (held ++ [v]) none := by
  rw [bodyHeld, List.length_append, List.length_singleton]

theorem exec_receivedByte (hphase : s.phase = .running) (hstraddling : s.link.straddling = false) (v : Byte) :
    exec (.receivedByte v) s = .next (takeByte v s) := by
  simp [exec, execReceivedByte, hphase, hstraddling]

theorem exec_frame (hphase : s.phase = .running) : exec .frame s = .next (checkFrame s) := if_pos hphase

end

/-- Settles O7, by the receiver's state. -/
theorem receiverTakesEachByte : Obligations.ReceiverTakesEachByte := by
  intro s v
  by_cases hphase : s.phase = .running
  case neg => exact ⟨s, if_neg hphase, fun _ => rfl, fun h => absurd h hphase, fun h => absurd h hphase⟩
  cases hstraddling : s.link.straddling with
  | true =>
    refine ⟨straddleEnds s, ?_, fun h => absurd hphase h, fun _ _ => rfl, fun _ h => (nomatch h)⟩
    simp [exec, execReceivedByte, hphase, hstraddling]
  | false =>
    refine ⟨takeByte v s, exec_receivedByte hphase hstraddling v, fun h => absurd hphase h, fun _ h => (nomatch h),
      fun _ _ => ?_⟩
    split
    case h_1 h => exact takeByte_hunt h v
    case h_2 h => exact takeByte_length h v
    case h_3 h => exact takeByte_length_low h v
    case h_4 len held h =>
      rw [takeByte_body h, bodyHeld_append]
      split <;> rfl
    case h_5 h => exact takeByte_check h v
    case h_6 h => exact takeByte_check_low h v
    case h_7 h =>
      intro u hu
      cases (exec_frame hphase).symm.trans hu
      exact takeByte_complete h v

/-! ### A frame byte by byte (R145, R187, R188) -/

/-- A state with its receiver and its queue of commands replaced. -/
def receiving (s : State) (r : Receiver) (pending : List Instr) : State :=
  { s with pending := pending, link := { s.link with receiver := r } }

section
variable {s : State} (hphase : s.phase = .running) (hstraddling : s.link.straddling = false)
include hphase hstraddling

/-- One received byte of a run of the part that moves the receiver alone. -/
theorem run_receivedByte {r r' : Receiver} {v : Byte} (k : Nat) (rest : List Instr)
    (h : takeByte v (receiving s r rest) = receiving s r' rest) :
    Host.Core.run core (k + 1) (receiving s r (.receivedByte v :: rest)) = Host.Core.run core k (receiving s r' rest) := by
  have hstep : core.step (receiving s r (.receivedByte v :: rest)) = .next (receiving s r' rest) := by
    rw [← h]
    exact exec_receivedByte (s := receiving s r rest) hphase hstraddling v
  simp only [Host.Core.run, hstep]

/-- R146: the bytes of the body, one after another, to the last of LEN. -/
theorem run_body {len : Nat} (k : Nat) (rest : List Instr) (v : Byte) (bytes held : List Byte)
    (hlen : held.length + (bytes.length + 1) = len) :
    Host.Core.run core ((v :: bytes).length + k) (receiving s (.body len held) ((v :: bytes).map .receivedByte ++ rest)) =
      Host.Core.run core k (receiving s (.check len (held ++ v :: bytes) none) rest) := by
  induction bytes generalizing v held with
  | nil =>
    have hlast : ¬ held.length + 1 < len := by simp at hlen; omega
    have hcount : [v].length + k = k + 1 := Nat.add_comm _ _
    rw [hcount]
    exact run_receivedByte hphase hstraddling k rest
      ((takeByte_body rfl v).trans (by rw [bodyHeld_append, if_neg hlast]; rfl))
  | cons w bytes ih =>
    have hmore : held.length + 1 < len := by simp at hlen; omega
    have hcount : (v :: w :: bytes).length + k = ((w :: bytes).length + k) + 1 := by simp only [List.length_cons]; omega
    rw [hcount]
    refine (run_receivedByte hphase hstraddling _ ((w :: bytes).map .receivedByte ++ rest)
      ((takeByte_body rfl v).trans (by rw [bodyHeld_append, if_pos hmore]; rfl))).trans ?_
    rw [ih w (held ++ [v]) (by simp only [List.length_append, List.length_cons, List.length_nil] at hlen ⊢; omega),
      List.append_assoc, List.singleton_append]

/-- R145, R146: SYNC and the two bytes of LEN lead from HUNT to BODY. -/
theorem run_header {n : Nat} (k : Nat) (rest : List Instr) (hlow : 3 ≤ n) (hhigh : n ≤ 1027) :
    Host.Core.run core (k + 3) (receiving s .hunt ((0x5A :: leBytes 2 n).map .receivedByte ++ rest)) =
      Host.Core.run core k (receiving s (.body n []) rest) := by
  have hn : (BitVec.ofNat 8 n).toNat + 256 * (BitVec.ofNat 8 (n / 256)).toNat = n := by
    simp only [BitVec.toNat_ofNat]
    omega
  refine (run_receivedByte hphase hstraddling (k + 2) _
    ((takeByte_hunt (s := receiving s .hunt _) rfl _).trans (if_pos rfl))).trans ?_
  refine (run_receivedByte hphase hstraddling (k + 1) _ (takeByte_length (s := receiving s _ _) rfl _)).trans ?_
  refine run_receivedByte hphase hstraddling k rest ((takeByte_length_low (s := receiving s _ rest) rfl _).trans ?_)
  rw [hn]
  exact if_pos ⟨hlow, hhigh⟩

/-- R146: the two bytes of the CRC complete the frame. -/
theorem run_crc {len : Nat} {held : List Byte} (low high : Byte) :
    Host.Core.run core 2 (receiving s (.check len held none) ([low, high].map .receivedByte)) =
      .next (receiving s (.complete len held low high) []) := by
  refine (run_receivedByte hphase hstraddling 1 _ (takeByte_check (s := receiving s _ _) rfl _)).trans ?_
  exact run_receivedByte hphase hstraddling 0 [] (takeByte_check_low (s := receiving s _ []) rfl _)

end

/-- R188: the two bytes of a CRC, least significant first, read back. -/
theorem crcMatches_frameCore (cls seq code : Byte) (payload : List Byte) :
    crcMatches (payload.length + 3) (cls :: seq :: code :: payload)
      (BitVec.ofNat 8 (crc16 (frameCore cls seq code payload)).toNat)
      (BitVec.ofNat 8 ((crc16 (frameCore cls seq code payload)).toNat / 256)) = true := by
  have hcrc := (crc16 (frameCore cls seq code payload)).isLt
  refine decide_eq_true ?_
  rw [show leBytes 2 (payload.length + 3) ++ cls :: seq :: code :: payload = frameCore cls seq code payload from rfl]
  simp only [BitVec.toNat_ofNat]
  omega

/-- Settles O8: header, body and CRC, one after another. -/
theorem sentFrameIsReceived : Obligations.SentFrameIsReceived := by
  intro s cls seq code payload hphase hreceiver hstraddling hpending hlength
  refine ⟨_, _, ?_, crcMatches_frameCore cls seq code payload⟩
  generalize hcrc : (crc16 (frameCore cls seq code payload)).toNat = crc
  have hbytes : frameBytes cls seq code payload =
      (0x5A :: leBytes 2 (payload.length + 3)) ++ ((cls :: seq :: code :: payload) ++ leBytes 2 crc) := by
    rw [frameBytes, hcrc, frameCore]
    simp only [List.cons_append, List.append_assoc]
  have hcount : (frameBytes cls seq code payload).length = ((cls :: seq :: code :: payload).length + 2) + 3 := by
    rw [hbytes]
    simp only [List.length_append, List.length_cons, leBytes_length]
    omega
  have hstart : { s with pending := (frameBytes cls seq code payload).map .receivedByte } =
      receiving s .hunt ((frameBytes cls seq code payload).map .receivedByte) := by
    rw [receiving, ← hreceiver]
  have hend : { s with link := { s.link with
      receiver := .complete (payload.length + 3) (cls :: seq :: code :: payload) (BitVec.ofNat 8 crc)
        (BitVec.ofNat 8 (crc / 256)) } } =
      receiving s (.complete (payload.length + 3) (cls :: seq :: code :: payload) (BitVec.ofNat 8 crc)
        (BitVec.ofNat 8 (crc / 256))) [] := by
    rw [receiving, ← hpending]
  rw [hstart, hend, hcount, hbytes, List.map_append, List.map_append,
    run_header hphase hstraddling _ _ (by omega) (by omega),
    run_body hphase hstraddling _ _ cls (seq :: code :: payload) [] (by simp only [List.length_cons, List.length_nil]; omega)]
  exact run_crc hphase hstraddling _ _

/-! ### The check of a completed frame (R147, R187) -/

section
variable {s : State} {cls seq code : Byte} {payload : List Byte}

theorem checkFrame_of_complete {len : Nat} {held : List Byte} {low high : Byte}
    (h : s.link.receiver = .complete len held low high) :
    checkFrame s = testFrame len held low high (setReceiver .hunt s) := by
  unfold checkFrame
  rw [h]

theorem checkFrame_of_incomplete (h : ∀ len held low high, s.link.receiver ≠ .complete len held low high) :
    checkFrame s = s := by
  unfold checkFrame
  split
  · exact absurd ‹_› (h _ _ _ _)
  · rfl

theorem testFrame_of_mismatch {len : Nat} {held : List Byte} {low high : Byte} (h : crcMatches len held low high = false)
    (s : State) : testFrame len held low high s = countCrcError s := by
  unfold testFrame
  rw [h]
  rfl

/-- R147: a completed frame whose CRC matches, by its CLASS and its CODE. -/
theorem checkFrame_of_received (h : frameReceived s cls seq code payload) : checkFrame s =
    if cls &&& 0x7F = 0x01 then
      if requestCodeOf code = some .hello then takeHello seq (cls.getLsbD 7) payload (setReceiver .hunt s)
      else takeRequest seq code (cls.getLsbD 7) payload (setReceiver .hunt s)
    else countClassError (setReceiver .hunt s) := by
  obtain ⟨-, len, low, high, hreceiver, hcrc⟩ := h
  rw [checkFrame_of_complete hreceiver, testFrame, if_pos hcrc]
  simp only [classIsRequest, classIsRetry, decide_eq_true_eq]

end

/-- R148: a gap gives up a frame that is not yet complete. -/
theorem exec_gapTimeout_of_partial {s : State} (hphase : s.phase = .running) (hhunt : s.link.receiver ≠ .hunt)
    (hpartial : ∀ len held low high, s.link.receiver ≠ .complete len held low high) :
    exec .gapTimeout s = .next (countGapError (setReceiver .hunt s)) := by
  simp only [exec, execGapTimeout, if_pos hphase]
  split
  · exact absurd ‹_› hhunt
  · exact absurd ‹_› (hpartial _ _ _ _)
  all_goals rfl

/-- Settles O9: the gap, the CRC and the class. -/
theorem damagedFramesAreCounted : Obligations.DamagedFramesAreCounted := by
  refine ⟨fun s hphase => ⟨fun hhunt => ?_, fun hpartial => ?_⟩, fun s len held low high hphase hreceiver hcrc => ?_,
    fun s cls seq code payload hreceived hcls => ?_⟩
  · simp only [exec, execGapTimeout, if_pos hphase, hhunt]
  · obtain ⟨_, h⟩ | ⟨_, _, h⟩ | ⟨_, _, _, h⟩ := hpartial <;>
      exact exec_gapTimeout_of_partial hphase (by simp [h]) (by simp [h])
  · rw [exec_frame hphase, checkFrame_of_complete hreceiver, testFrame_of_mismatch hcrc]
    rfl
  · rw [exec_frame hreceived.1, checkFrame_of_received hreceived, if_neg hcls]
    rfl

end Sys2Proof.Machine
end

section
/-! The admission of a checked request (R150, R154, R155) and Hello (R151 to R153, R162, R172, R186), row by row. -/

namespace Sys2Proof.Machine

/-! ### The CODE of a request (R189) -/

theorem requestCodeOf_eq_some {b : Byte} {c : RequestCode} : requestCodeOf b = some c ↔ b = requestCodeByte c := by
  constructor
  · intro h
    exact (of_decide_eq_true (List.find?_some (p := fun c => decide (requestCodeByte c = b)) h)).symm
  · rintro rfl
    exact requestCodeOf_requestCodeByte c

theorem requestCodeOf_eq_none {b : Byte} (h : ∀ c, requestCodeByte c ≠ b) : requestCodeOf b = none := by
  cases hcode : requestCodeOf b with
  | none => rfl
  | some c => exact absurd (requestCodeOf_eq_some.mp hcode).symm (h c)

section
variable {s : State} {cls seq code : Byte} {payload : List Byte}

/-- R147, R150: a checked request other than Hello. -/
theorem exec_frame_request (h : frameReceived s cls seq code payload) (hcls : cls &&& 0x7F = 0x01) (hcode : code ≠ 0x01) :
    exec .frame s = .next (takeRequest seq code (cls.getLsbD 7) payload (setReceiver .hunt s)) := by
  have hother : requestCodeOf code ≠ some .hello := mt requestCodeOf_eq_some.mp hcode
  rw [exec_frame h.1, checkFrame_of_received h, if_pos hcls, if_neg hother]

/-! ### Admission (R150, R155) -/

theorem takeRequest_closed (h : s.link.sessionOpen = false) (retry : Bool) :
    takeRequest seq code retry payload s = queueAnswer (statusAnswer seq code .notOpen) s := by
  rw [takeRequest, h]
  rfl

theorem takeRequest_retry (h : s.link.sessionOpen = true) :
    takeRequest seq code true payload s = admitRetry seq code payload s := by
  rw [takeRequest, h]
  rfl

theorem takeRequest_fresh (h : s.link.sessionOpen = true) :
    takeRequest seq code false payload s = admitFresh seq code payload s := by
  rw [takeRequest, h]
  rfl

theorem admitRetry_cached {r : Reply} (h : cachedReply s.link.cache seq = some r) : admitRetry seq code payload s =
    if r.code = code then queueAnswer (resendAnswer r) s else replaceCached seq code payload s := by
  unfold admitRetry
  rw [h]

theorem admitRetry_uncached (h : cachedReply s.link.cache seq = none) : admitRetry seq code payload s =
    if outstandingWith s.link.table seq then s else replaceCached seq code payload s := by
  unfold admitRetry
  rw [h, replaceCached_of_none h]

/-- R155: a fresh request is SEQ_BUSY, or taken as new. -/
theorem admitFresh_eq : admitFresh seq code payload s =
    if outstandingWith s.link.table seq then queueAnswer (statusAnswer seq code .seqBusy) s
    else replaceCached seq code payload s := by
  unfold admitFresh
  cases hcached : cachedReply s.link.cache seq with
  | some r => rfl
  | none => rw [replaceCached_of_none hcached]

/-- R155: a request is taken as new where no entry holds its SEQ and no cached reply answers it. -/
theorem takeRequest_new (hopen : s.link.sessionOpen = true) {retry : Bool} (hseq : seq ∉ tableSeqs s.link.table)
    (hcache : ∀ r ∈ s.link.cache, r.seq = seq → r.code ≠ code ∨ retry = false) :
    takeRequest seq code retry payload s = replaceCached seq code payload s := by
  have hout := outstandingWith_eq_false hseq
  cases retry with
  | false => rw [takeRequest_fresh hopen, admitFresh_eq, hout]; rfl
  | true =>
    rw [takeRequest_retry hopen]
    cases hcached : cachedReply s.link.cache seq with
    | some r =>
      obtain ⟨hr, hrseq⟩ := cachedReply_eq_some hcached
      rw [admitRetry_cached hcached, if_neg ((hcache r hr hrseq).resolve_right (by decide))]
    | none => rw [admitRetry_uncached hcached, hout]; rfl

theorem replaceCached_room (h : s.link.table.length < 8) : replaceCached seq code payload s = { s with link := { s.link with
    cache := cacheRemove s.link.cache seq
    table := s.link.table ++
      [{ seq := seq, code := code, payload := payload, state := .waiting, orphaned := false }] } } := if_pos h

theorem replaceCached_full (h : 8 ≤ s.link.table.length) (hreplies : s.link.replies.length < 16) :
    replaceCached seq code payload s = { s with link := { s.link with
      cache := cacheRemove s.link.cache seq
      replies := s.link.replies ++ [statusAnswer seq code .nobuf]
      counters := { s.link.counters with nobuf := min 65535 (s.link.counters.nobuf + 1) } } } :=
  (if_neg (Nat.not_lt.mpr h)).trans (if_pos hreplies)

end

/-- Settles O10, row by row. -/
theorem requestsAreAdmitted : Obligations.RequestsAreAdmitted := by
  refine ⟨fun s cls seq code payload hreceived hcls hcode hclosed => ?_,
    fun s cls seq code payload hreceived hcls hcode hopen hnodup => ?_⟩
  · rw [exec_frame_request hreceived hcls hcode, takeRequest_closed (s := setReceiver .hunt s) hclosed]
    rfl
  obtain ⟨-, hcache, happart⟩ := List.nodup_append.mp hnodup
  rw [exec_frame_request hreceived hcls hcode]
  refine ⟨fun r hr hseq hrcode hretry => ?_, fun hseq hretry => ?_, fun hseq hfresh => ?_, fun hseq hnew => ?_⟩
  · subst hseq hrcode
    rw [hretry, takeRequest_retry (s := setReceiver .hunt s) hopen,
      admitRetry_cached (s := setReceiver .hunt s) (cachedReply_of_mem hcache hr), if_pos rfl]
    rfl
  · have hnone : cachedReply s.link.cache seq = none := cachedReply_eq_none.mpr fun hmem => happart seq hseq seq hmem rfl
    rw [hretry, takeRequest_retry (s := setReceiver .hunt s) hopen, admitRetry_uncached (s := setReceiver .hunt s) hnone]
    exact congrArg _ (if_pos ((outstandingWith_iff _ _).mpr hseq))
  · rw [hfresh, takeRequest_fresh (s := setReceiver .hunt s) hopen, admitFresh_eq]
    exact congrArg _ (if_pos ((outstandingWith_iff _ _).mpr hseq))
  · rw [takeRequest_new (s := setReceiver .hunt s) hopen hseq hnew]
    refine ⟨fun hroom => ?_, fun hfull hreplies => ?_⟩
    · rw [replaceCached_room (s := setReceiver .hunt s) hroom]
      rfl
    · rw [replaceCached_full (s := setReceiver .hunt s) hfull hreplies]
      rfl

/-! ### Hello (R151 to R153) -/

section
variable {s : State} {cls seq : Byte} {payload : List Byte}

theorem checkFrame_of_hello (h : frameReceived s cls seq 0x01 payload) (hcls : cls &&& 0x7F = 0x01) :
    checkFrame s = takeHello seq (cls.getLsbD 7) payload (setReceiver .hunt s) := by
  rw [checkFrame_of_received h, if_pos hcls]
  exact if_pos rfl

theorem helloCompleted_of_received (h : frameReceived s cls seq 0x01 payload) (hcls : cls &&& 0x7F = 0x01) :
    helloCompleted s = true := by
  obtain ⟨-, len, low, high, hreceiver, hcrc⟩ := h
  have hclass : classIsRequest cls = true := decide_eq_true hcls
  unfold helloCompleted
  rw [hreceiver]
  simp only [hcrc, hclass]
  rfl

theorem exec_hello (h : frameReceived s cls seq 0x01 payload) (hcls : cls &&& 0x7F = 0x01) :
    exec .hello s = .next (takeHello seq (cls.getLsbD 7) payload (setReceiver .hunt s)) := by
  rw [← checkFrame_of_hello h hcls]
  exact if_pos ⟨h.1, helloCompleted_of_received h hcls⟩

theorem takeHello_restarting (h : s.link.restartTaken = true) (retry : Bool) : takeHello seq retry payload s = s := if_pos h

/-- R151: a Hello is judged by its checks unless it is the retry, in an OPEN session, of a cached Hello. -/
theorem takeHello_judged {retry : Bool} (hrestart : s.link.restartTaken = false)
    (h : s.link.sessionOpen = false ∨ retry = false ∨ ∀ r ∈ s.link.cache, r.seq = seq → r.code ≠ 0x01) :
    takeHello seq retry payload s = judgeHello seq payload s := by
  rw [takeHello, if_neg (by simp [hrestart])]
  split
  · rename_i r hcached
    obtain ⟨hr, hseq⟩ := cachedReply_eq_some hcached
    refine if_neg fun ⟨hretry, hopen, hcode⟩ => ?_
    obtain hclosed | hfresh | hother := h
    · cases hclosed.symm.trans hopen
    · cases hfresh.symm.trans hretry
    · exact hother r hr hseq hcode
  · rfl

theorem takeHello_cached {r : Reply} (hrestart : s.link.restartTaken = false) (hopen : s.link.sessionOpen = true)
    (hcached : cachedReply s.link.cache seq = some r) (hcode : r.code = 0x01) :
    takeHello seq true payload s = queueAnswer (resendAnswer r) s := by
  rw [takeHello, if_neg (by simp [hrestart]), hcached]
  exact if_pos ⟨rfl, hopen, hcode⟩

theorem judgeHello_badLength (h : payload.length ≠ 1) :
    judgeHello seq payload s = queueAnswer (statusAnswer seq 0x01 .badLength) s := by
  unfold judgeHello
  rw [helloFields, if_pos h]
  rfl

theorem judgeHello_badField {b : Byte} (h : b ≠ 1) :
    judgeHello seq [b] s = queueAnswer (statusAnswer seq 0x01 .badField) s := by
  have hversion : (byteField [b] 0).toNat ≠ Config.protocolVersion := fun hb => h (BitVec.eq_of_toNat_eq hb)
  unfold judgeHello
  rw [helloFields, if_neg (by simp), if_pos hversion]
  rfl

theorem judgeHello_closed (h : s.link.sessionOpen = false) : judgeHello seq [0x01] s = openSession seq s :=
  if_neg (by simp [h])

theorem judgeHello_open (h : s.link.sessionOpen = true) : judgeHello seq [0x01] s = reopenSession seq s := if_pos h

/-- R161: an immediate answer that finds room. -/
theorem queueAnswer_room {q : QueuedReply} (h : s.link.replies.length < 16) :
    queueAnswer q s = { s with link := { s.link with replies := s.link.replies ++ [q] } } := if_pos h

theorem openSession_room (h : s.link.replies.length < 16) : openSession seq s = { s with link := { s.link with
    counters := .zero
    sessionOpen := true
    replies := s.link.replies ++ [helloAnswer seq (some s.link.resetCause)] } } := if_pos h

/-- R152: the replies that waited are dropped, so the answer finds room. -/
theorem reopenSession_eq : reopenSession seq s = { s with
    notices := { s.notices with credit := 0 }
    link := { s.link with
      table := reopenTable s.link.transmitter s.link.table
      replies := [helloAnswer seq none]
      cache := []
      counters := .zero
      transmitter := reopenTransmitter s.link.transmitter } } := rfl

end

/-- R186, R190: the 21 bytes of the identity. -/
theorem helloPayload_eq (cause : Option ResetCause) : helloPayload cause =
    [0x00, 0x31, 0x0D, 0x06, 0x08, 0x01, 0x01, 8, 16, 2, 0, 0, 1, 0, 4, 8, 8, 16, 0, 4, resetCauseByte cause] := rfl

/-- Settles O11: the two refusals and the session opened. -/
theorem helloOpensTheSession : Obligations.HelloOpensTheSession := by
  refine ⟨fun s cls seq payload hreceived hcls hclosed hrestart hroom => ?_,
    fun s cls seq hreceived hcls hclosed hrestart hroom => ?_⟩
  · rw [exec_hello hreceived hcls, takeHello_judged (s := setReceiver .hunt s) hrestart (.inl hclosed)]
    refine ⟨fun hlength => ?_, fun b hb hversion => ?_⟩
    · rw [judgeHello_badLength hlength, queueAnswer_room (s := setReceiver .hunt s) hroom]
      rfl
    · rw [hb, judgeHello_badField hversion, queueAnswer_room (s := setReceiver .hunt s) hroom]
      rfl
  · refine ⟨?_, ?_⟩
    · rw [exec_hello hreceived hcls, takeHello_judged (s := setReceiver .hunt s) hrestart (.inl hclosed),
        judgeHello_closed (s := setReceiver .hunt s) hclosed, openSession_room (s := setReceiver .hunt s) hroom, helloAnswer,
        helloPayload_eq, setReceiver_link_resetCause]
      cases hcause : s.link.resetCause <;> rfl
    · rw [exec_hello hreceived hcls, exec_frame hreceived.1, checkFrame_of_hello hreceived hcls]

/-- Settles O12: the session reopened, the refusals, the cached answer, and the Restart interval. -/
theorem helloReopensTheSession : Obligations.HelloReopensTheSession := by
  refine ⟨fun s cls seq payload hreceived hcls hopen hrestart hfresh => ?_,
    fun s cls seq payload r hreceived hcls hopen hrestart hretry hnodup hr hseq hcode => ?_,
    fun s cls seq payload hreceived hcls hrestart => ?_⟩
  · rw [exec_hello hreceived hcls, takeHello_judged (s := setReceiver .hunt s) hrestart (.inr hfresh)]
    refine ⟨fun hpayload => ?_, fun hlength => ?_, fun b hb hversion => ?_⟩
    · rw [hpayload, judgeHello_open (s := setReceiver .hunt s) hopen, reopenSession_eq, reopenTable_eq]
      rfl
    · rw [judgeHello_badLength hlength]
      rfl
    · rw [hb, judgeHello_badField hversion]
      rfl
  · subst hseq
    rw [exec_hello hreceived hcls, hretry,
      takeHello_cached (s := setReceiver .hunt s) hrestart hopen (cachedReply_of_mem hnodup hr) hcode]
    rfl
  · rw [exec_hello hreceived hcls, takeHello_restarting (s := setReceiver .hunt s) hrestart]
    rfl

end Sys2Proof.Machine
end

section
/-! Replies and notices on the line (R144, R151, R154, R156, R161, R162, R169 to R171), and how notices, answers and entries join
their queues (R154, R157, R158, R161, R168). -/

namespace Sys2Proof.Machine

/-! ### The end of a reply (R154, R156, R162) -/

section
variable {s : State} {q : QueuedReply} {cacheable : Bool}

theorem exec_replySent (h : s.link.transmitter = .sendingReply q cacheable) :
    exec .replySent s = .next (replyEffect q.effect (setTransmitter .idle (settleReply q cacheable s))) := by
  simp only [exec, execReplySent, h]

theorem exec_replySent_of_nothing (h : s.link.transmitter = .sendingReply q cacheable) (heffect : q.effect = .nothing) :
    exec .replySent s = .next (setTransmitter .idle (settleReply q cacheable s)) := by
  rw [exec_replySent h, heffect]
  rfl

theorem settleReply_entry (h : q.origin = .entry) : settleReply q cacheable s = { s with link := { s.link with
    table := s.link.table.eraseP (isAnswered q.reply.seq)
    cache := if cacheable then cacheAdd s.link.cache q.reply else s.link.cache } } := by
  unfold settleReply
  rw [h, ← removeAnswered_eq]

theorem settleReply_hello (h : q.origin = .hello) : settleReply q true s = { s with link := { s.link with
    cache := if outstandingWith s.link.table q.reply.seq then cacheRemove s.link.cache q.reply.seq
      else cacheAdd (cacheRemove s.link.cache q.reply.seq) q.reply } } := by
  unfold settleReply
  rw [h]
  rfl

theorem settleReply_hello_uncacheable (h : q.origin = .hello) : settleReply q false s = s := by
  unfold settleReply
  rw [h]
  rfl

theorem settleReply_forgotten (h : q.origin = .forgotten) : settleReply q cacheable s = s := by
  unfold settleReply
  rw [h]

/-- R162: the end of a reply changes the Request Table and the Reply Cache alone. -/
theorem settleReply_frame (q : QueuedReply) (cacheable : Bool) (s : State) : settleReply q cacheable s =
    { s with link := { s.link with
      table := (settleReply q cacheable s).link.table, cache := (settleReply q cacheable s).link.cache } } := by
  unfold settleReply
  split
  · rfl
  · split <;> rfl
  · rfl

/-- R144: with no frame complete, a change of line rate has no check to wait for. -/
theorem exec_replySent_of_lineRate {baud : Nat} (h : s.link.transmitter = .sendingReply q cacheable)
    (heffect : q.effect = .lineRate baud) (hpartial : ∀ len held low high, s.link.receiver ≠ .complete len held low high) :
    exec .replySent s = .next (changeLineRate baud (setTransmitter .idle (settleReply q cacheable s))) := by
  have hreceiver : (setTransmitter .idle (settleReply q cacheable s)).link.receiver = s.link.receiver := by
    rw [settleReply_frame]
    rfl
  rw [exec_replySent h, heffect, replyEffect,
    checkFrame_of_incomplete fun len held low high => hreceiver ▸ hpartial len held low high]

end

/-- Settles O13: the beginning of a reply, its end by its origin, and the change of line rate. -/
theorem repliesAreSentInOrder : Obligations.RepliesAreSentInOrder := by
  refine ⟨fun s q rest hphase hidle hreplies => ?_, fun s q cacheable hsending heffect => ?_,
    fun s q cacheable baud hsending heffect hpartial => ?_⟩
  · simp only [exec, execReplyBegin, hphase, hidle, hreplies]
  · rw [exec_replySent_of_nothing hsending heffect]
    refine ⟨fun horigin => ?_, fun horigin hcacheable => ⟨fun hheld => ?_, fun hfree => ?_⟩, fun horigin hcacheable => ?_,
      fun horigin => ?_⟩
    · rw [settleReply_entry horigin]
      rfl
    · have hout := (outstandingWith_iff s.link.table q.reply.seq).mpr (mem_tableSeqs.mpr hheld)
      rw [hcacheable, settleReply_hello horigin, if_pos hout]
      rfl
    · have hout : outstandingWith s.link.table q.reply.seq = false := outstandingWith_eq_false fun hmem => by
        obtain ⟨r, hr, hseq, horphaned⟩ := mem_tableSeqs.mp hmem
        cases horphaned.symm.trans (hfree r hr hseq)
      rw [hcacheable, settleReply_hello horigin, hout]
      rfl
    · rw [hcacheable, settleReply_hello_uncacheable horigin]
      rfl
    · rw [settleReply_forgotten horigin]
      rfl
  · have hframe := settleReply_frame q cacheable s
    refine ⟨_, exec_replySent_of_lineRate hsending heffect hpartial, ?_, rfl, rfl, ?_, rfl, ?_, ?_, fun horigin => ?_⟩
    · rw [hframe]
      rfl
    · rw [hframe]
      rfl
    · rw [hframe]
      rfl
    · rw [hframe]
      rfl
    · rw [settleReply_entry horigin]
      exact ⟨rfl, rfl⟩

/-! ### Notices on the line (R162, R169, R171) -/

/-- R169, R171: what the Notice Queue is once its oldest notice is begun. -/
theorem noticeTaken_eq (rest : List Notice) (q : NoticeQueue) : noticeTaken rest q =
    { items := rest ++ (if 0 < q.lost then [.noticeLoss q.lost] else [])
      credit := q.credit - 1
      lost := 0
      seqCounter := q.seqCounter + 1 } := by
  unfold noticeTaken placeLoss
  by_cases hlost : 0 < q.lost
  · simp only [if_pos hlost]
  · have hnone : q.lost = 0 := Nat.eq_zero_of_not_pos hlost
    simp only [if_neg hlost, List.append_nil]
    rw [hnone]

theorem exec_noticeBegin {s : State} {n : Notice} {rest : List Notice} (hphase : s.phase = .running)
    (hidle : s.link.transmitter = .idle) (hreplies : s.link.replies = []) (hitems : s.notices.items = n :: rest)
    (hcredit : 0 < s.notices.credit) : exec .noticeBegin s = .next (beginNotice n rest s) := by
  simp only [exec, execNoticeBegin, hphase, hidle, hreplies, hitems, if_pos hcredit]

/-- R162, R171: a notice is begun with credit, on a free line, and while no reply waits. -/
theorem exec_noticeBegin_of_barred {s : State}
    (h : s.notices.credit = 0 ∨ s.link.replies ≠ [] ∨ s.link.transmitter ≠ .idle) : exec .noticeBegin s = .next s := by
  simp only [exec, execNoticeBegin]
  split
  · rename_i hidle hreplies _
    obtain hcredit | hwaits | hbusy := h
    · exact if_neg (by simp [hcredit])
    · exact absurd hreplies hwaits
    · exact absurd hidle hbusy
  · rfl

/-- Settles O14: a notice begun, the conditions that keep it back, and its frame on the line. -/
theorem noticesGoAgainstCredit : Obligations.NoticesGoAgainstCredit := by
  refine ⟨fun s n rest hphase hidle hreplies hitems hcredit => ?_, fun s hcredit => exec_noticeBegin_of_barred (.inl hcredit),
    fun s hbarred => exec_noticeBegin_of_barred (.inr hbarred), fun s seq n hsending => ⟨?_, ?_⟩⟩
  · rw [exec_noticeBegin hphase hidle hreplies hitems hcredit, beginNotice, noticeTaken_eq]
    rfl
  · rw [frameOnLine, hsending]
    rfl
  · simp only [exec, execNoticeSent, hsending]
    rfl

/-! ### Joining the queues (R154, R157, R158, R161, R168) -/

theorem offerTo_eq (q : NoticeQueue) (n : Notice) : offerTo q n = { q with
    items := if q.items.length < 16 then q.items ++ [n] else q.items
    lost := if q.items.length < 16 then q.lost else min 65535 (q.lost + 1) } := by
  unfold offerTo
  by_cases hroom : q.items.length < 16
  · simp only [Config.noticeCapacity, if_pos hroom]
  · simp only [Config.noticeCapacity, if_neg hroom]

theorem queueAnswer_eq (q : QueuedReply) (s : State) : queueAnswer q s = { s with link := { s.link with
    replies := if s.link.replies.length < 16 then s.link.replies ++ [q] else s.link.replies
    counters := { s.link.counters with
      nobuf := if s.link.replies.length < 16 then s.link.counters.nobuf
        else min 65535 (s.link.counters.nobuf + 1) } } } := by
  obtain ⟨hroom, h⟩ | ⟨hfull, h⟩ := queueAnswer_cases q s
  · rw [h, if_pos hroom, if_pos hroom]
    rfl
  · rw [h, if_neg (Nat.not_lt.mpr hfull), if_neg (Nat.not_lt.mpr hfull)]
    rfl

/-- R158: the oldest WAITING entry takes the state, its payload done with. -/
theorem markFirst_isWaiting (st : RequestState) {before : List Request} (after : List Request) {r : Request}
    (hbefore : ∀ q ∈ before, q.state ≠ .waiting) (hr : r.state = .waiting) :
    markFirst isWaiting st (before ++ r :: after) = before ++ { r with state := st, payload := [] } :: after :=
  markFirst_split isWaiting st before after r (fun q hq => decide_eq_false (hbefore q hq)) (decide_eq_true hr)

/-- Settles O15, operation by operation. -/
theorem answersAndOffersJoinTheirQueues : Obligations.AnswersAndOffersJoinTheirQueues := by
  refine ⟨⟨fun n s => ?_, queueAnswer_eq⟩, fun s before after r st fields effect htable hbefore hr => ⟨?_, fun work => ?_⟩,
    fun s work st fields => ?_⟩
  · rw [offerNotice, offerTo_eq]
  · rw [answerEntry, htable, markFirst_isWaiting .executing after hbefore hr]
    rfl
  · rw [deferEntry, htable, markFirst_isWaiting (.deferred work) after hbefore hr]
  · rw [finishWork, finishTable_eq]
    rfl

end Sys2Proof.Machine
end

section
/-! The dispatcher (R158 to R160): what it takes and what holds it; unknown codes, Restart and Grant Notices (R158, R170,
R182). -/

namespace Sys2Proof.Machine

/-! ### The entry taken (R158 to R160) -/

section
variable {s : State} {r : Request} {before after : List Request}

theorem oldestWaiting_of_split (htable : s.link.table = before ++ r :: after) (hbefore : ∀ q ∈ before, q.state ≠ .waiting)
    (hr : r.state = .waiting) : oldestWaiting s = some r :=
  List.find?_eq_some_iff_append.mpr ⟨decide_eq_true hr, before, after, htable, fun q hq => by
    simpa [isWaiting] using hbefore q hq⟩

theorem nextRequest_of_free (hphase : s.phase = .running) (hrestart : s.link.restartTaken = false)
    (holdest : oldestWaiting s = some r) (hfree : held s r = false) : nextRequest s = some r := by
  rw [nextRequest, if_pos ⟨hphase, hrestart⟩, holdest]
  exact if_neg (by simp [hfree])

/-- R160, R184, R185: no entry is taken out of normal running or in the Restart interval. -/
theorem nextRequest_of_barred (h : s.phase ≠ .running ∨ s.link.restartTaken = true) : nextRequest s = none := by
  refine if_neg fun ⟨hphase, hrestart⟩ => ?_
  obtain hphase' | hrestart' := h
  · exact hphase' hphase
  · cases hrestart.symm.trans hrestart'

/-- R158: none WAITING, or the oldest held. -/
theorem nextRequest_of_oldest_barred (h : ∀ r, oldestWaiting s = some r → held s r = true) : nextRequest s = none := by
  cases hnext : nextRequest s with
  | none => rfl
  | some r =>
    obtain ⟨-, -, holdest, hfree⟩ := nextRequest_eq_some hnext
    cases hfree.symm.trans (h r holdest)

/-- R158: every command of the dispatcher is a taking; with no entry to take it changes nothing. -/
theorem exec_of_none (h : nextRequest s = none) : ∀ c ∈ dispatcherCommands, exec c s = .next s := by
  have hidle (code : RequestCode) (run : Request → State → State) :
      Host.Outcome.next (φ := Fault) (ρ := Refusal) (dispatch code run s) = .next s :=
    congrArg _ (dispatch_of_none code run h)
  refine List.forall_mem_cons.mpr ⟨?_, fun c hc => ?_⟩
  · simp only [exec, execUnknownCode, h]
  · fin_cases hc
    all_goals exact hidle _ _

theorem held_of_unknown (h : requestCodeOf r.code = none) : held s r = false := by
  unfold held
  rw [h]

end

/-- R159: what holds an entry. -/
theorem held_iff (s : State) (r : Request) : held s r = true ↔
    (r.code = 0x30 ∧ s.raster.jobs ≠ []) ∨ (r.code = 0x33 ∧ r.payload.head? = some 0 ∧ s.raster.jobs ≠ []) ∨
      ((r.code = 0x38 ∨ r.code = 0x39) ∧ 4 ≤ s.raster.jobs.length) := by
  cases hcode : requestCodeOf r.code with
  | none =>
    have hother (c : RequestCode) : r.code ≠ requestCodeByte c := fun h => by
      cases hcode.symm.trans (requestCodeOf_eq_some.mpr h)
    refine iff_of_false (by simp [held_of_unknown hcode]) ?_
    rintro (⟨h, -⟩ | ⟨h, -, -⟩ | ⟨h | h, -⟩)
    · exact hother .loadOpen h
    · exact hother .readPixels h
    · exact hother .fill h
    · exact hother .copy h
  | some c =>
    rw [held, hcode, requestCodeOf_eq_some.mp hcode]
    cases c <;> simp [requestCodeByte]

/-- Settles O16: with no entry to take no taking changes anything; and what holds an entry. -/
theorem heldDispatcherTakesNothing : Obligations.HeldDispatcherTakesNothing := by
  refine ⟨fun c hc s hbarred => exec_of_none ?_ c hc, held_iff⟩
  obtain hphase | hrestart | hnone | ⟨before, r, after, htable, hbefore, hr, hheld⟩ := hbarred
  · exact nextRequest_of_barred (.inl hphase)
  · exact nextRequest_of_barred (.inr hrestart)
  · refine nextRequest_of_oldest_barred fun r hr => ?_
    exact absurd (oldestWaiting_split hr).1 (hnone r (List.mem_of_find?_eq_some hr))
  · refine nextRequest_of_oldest_barred fun q hq => ?_
    cases (oldestWaiting_of_split htable hbefore hr).symm.trans hq
    exact hheld

/-- Settles O17: the oldest WAITING entry is taken, and an entry whose CODE names no request is never held. -/
theorem unknownCodesAreRefused : Obligations.UnknownCodesAreRefused := by
  intro s before after r hphase hrestart htable hbefore hr
  have hnext := nextRequest_of_free hphase hrestart (oldestWaiting_of_split htable hbefore hr)
  refine ⟨hnext, fun hunknown => ?_⟩
  have hcode := requestCodeOf_eq_none hunknown
  simp only [exec, execUnknownCode, hnext (held_of_unknown hcode)]
  exact if_pos hcode

/-! ### Restart and Grant Notices (R170, R182) -/

section
variable {s : State} {r : Request}

theorem exec_restart (h : takes s .restart r) : exec .restart s = .next (takeRestart r s) :=
  congrArg _ (dispatch_of_takes takeRestart h)

theorem exec_grantNotices (h : takes s .grantNotices r) : exec .grantNotices s = .next (grant r s) :=
  congrArg _ (dispatch_of_takes grant h)

theorem takeRestart_of_empty (h : r.payload = []) : takeRestart r s =
    { answerEntry r .ok [] .restart s with
      link := { (answerEntry r .ok [] .restart s).link with restartTaken := true } } := by
  unfold takeRestart
  rw [h]
  rfl

theorem grant_of_error {st : Status} (h : grantFields r.payload = .error st) : grant r s = answerEntry r st [] .nothing s := by
  unfold grant
  rw [h]

theorem grant_of_fields {n : Nat} (h : grantFields r.payload = .ok n) : grant r s =
    answerEntry r .ok [byteOf (min 255 (s.notices.credit + n))] .nothing
      { s with notices := { s.notices with credit := min 255 (s.notices.credit + n) } } := by
  unfold grant
  rw [h]

end

/-- R170: the two checks of a grant of one byte. -/
theorem grantFields_singleton {b : Byte} (h : b ≠ 0) : grantFields [b] = .ok b.toNat := by
  have hpos : ¬ b.toNat < 1 := fun hb => h (BitVec.eq_of_toNat_eq (Nat.lt_one_iff.mp hb))
  rw [grantFields, if_neg (by simp)]
  exact if_neg hpos

/-- Settles O20: Restart and its interval, and the credit. -/
theorem restartAndGrantAreTaken : Obligations.RestartAndGrantAreTaken := by
  refine ⟨fun s r htakes => ?_, fun s r htakes => ?_⟩
  · rw [exec_restart htakes]
    refine ⟨fun hpayload => ?_, fun hpayload => ⟨_, rfl, ?_, takeRestart_of_empty hpayload, ?_⟩⟩
    · rw [takeRestart, noFields_of_ne_nil hpayload]
    · rw [takeRestart_of_empty hpayload]
    · rw [takeRestart_of_empty hpayload]
      exact exec_of_none (nextRequest_of_barred (.inr rfl))
  · rw [exec_grantNotices htakes]
    refine ⟨fun hlength => ?_, fun hzero => ?_, fun b hb hpos => ?_⟩
    · rw [grant_of_error (if_pos hlength)]
    · rw [grant_of_error (st := .badField) (by rw [hzero]; rfl)]
    · rw [grant_of_fields (n := b.toNat) (by rw [hb]; exact grantFields_singleton hpos)]
      rfl

end Sys2Proof.Machine
end

section
/-! Get Status (R180, R190): the items of its reply in order, the size of each, and the offset at which each stands. -/

namespace Sys2Proof.Machine

/-! ### Items in a row -/

/-- The items `xs` in a row from offset `n`, each with the offset of its first byte. -/
def itemsFrom : Nat → List (List Byte) → List (Nat × List Byte)
  | _, [] => []
  | n, x :: xs => (n, x) :: itemsFrom (n + x.length) xs

/-- Items written one after another behind `pre` are read back at the offsets that `itemsFrom` gives them. -/
theorem take_drop_of_mem_itemsFrom {item : Nat × List Byte} {xs : List (List Byte)} :
    ∀ {pre : List Byte}, item ∈ itemsFrom pre.length xs →
      ((pre ++ xs.flatten).drop item.1).take item.2.length = item.2 := by
  induction xs with
  | nil => exact fun h => nomatch h
  | cons x xs ih =>
    intro pre h
    obtain rfl | hrest := List.mem_cons.mp h
    · rw [List.drop_left, List.flatten_cons, List.take_left]
    · rw [← List.length_append] at hrest
      rw [List.flatten_cons, ← List.append_assoc]
      exact ih hrest

/-! ### The sizes of the records (R190) -/

@[simp] theorem slotRecord_length (x : Slot) : (slotRecord x).length = 7 := by
  cases x <;> simp [slotRecord]

@[simp] theorem bankRecord_length (v : Bank) : (bankRecord v).length = 10 := by simp [bankRecord]

@[simp] theorem readingRecord_length (s : State) : (readingRecord s).length = 5 := by
  unfold readingRecord
  split <;> simp

@[simp] theorem loadRecord_length (l : Option LoadSession) : (loadRecord l).length = 18 := by
  cases l <;> simp [loadRecord]

/-! ### The items of the reply (R190) -/

/-- R190: the items of a Get Status reply after its status byte, in the order of the table. -/
def statusItems (s : State) : List (List Byte) :=
  [[railStateByte s.rails.state, faultCauseByte s.rails.faultCause, flagByte s.rails.fastFall],
    [frameTimerByte s.frameTimer, haltStateByte s.halt, flagByte (busyOutput s)], [byteOf (deferredHalts s)]] ++
  slotNumbers.map (fun i => slotRecord s.slots[i]) ++
  [byteOf s.queue.length :: leBytes 2 s.idCounter, bankRecord s.bankA, bankRecord s.bankB,
    byteOf (tempSourceNat s.params.tempSource) :: readingRecord s, loadRecord s.load,
    byteOf s.raster.jobs.length :: leBytes 4 (runningJobNumber s.raster), leBytes 4 s.raster.mark,
    leBytes 4 (jobCounterNat s.raster.counter), [byteOf s.notices.items.length, byteOf s.notices.credit],
    leBytes 2 s.notices.lost, [s.notices.seqCounter], leBytes 2 s.link.counters.crc, leBytes 2 s.link.counters.gap,
    leBytes 2 s.link.counters.length, leBytes 2 s.link.counters.cls, leBytes 2 s.link.counters.nobuf,
    leBytes 4 s.link.lineRate, [byteOf s.link.table.length]]

theorem statusRecord_eq_flatten (s : State) : statusRecord s = (statusItems s).flatten := by
  have hslots : s.slots.toList.flatMap slotRecord = (slotNumbers.map fun i => slotRecord s.slots[i]).flatten := by
    rw [slots_toList, List.flatMap_map, List.flatMap_def]
  simp [statusRecord, hslots, statusItems, counterRecord]

/-- R190: 144 bytes with the status byte. -/
theorem statusRecord_length (s : State) : (statusRecord s).length = 143 := by
  rw [statusRecord_eq_flatten]
  simp [statusItems, slotNumbers]

/-- R190: an item of the reply is read at its offset, behind the status byte `b`. -/
theorem statusItem_at_offset (b : Byte) {s : State} {item : Nat × List Byte} (h : item ∈ itemsFrom 1 (statusItems s)) :
    ((b :: statusRecord s).drop item.1).take item.2.length = item.2 := by
  rw [statusRecord_eq_flatten]
  exact take_drop_of_mem_itemsFrom (pre := [b]) h

/-! ### The request (R180) -/

section
variable {s : State} {r : Request}

theorem exec_getStatus (h : takes s .getStatus r) : exec .getStatus s = .next (reportStatus r s) :=
  congrArg _ (dispatch_of_takes reportStatus h)

theorem reportStatus_of_ne_nil (h : r.payload ≠ []) : reportStatus r s = answerEntry r .badLength [] .nothing s := by
  rw [reportStatus, noFields_of_ne_nil h]

theorem reportStatus_of_empty (h : r.payload = []) :
    reportStatus r s = answerEntry r .ok (statusRecord s) .nothing s := by
  rw [reportStatus, h]
  rfl

end

/-- Settles O18: the reply's items, laid out in a row behind the status byte, have the offsets of R190. -/
theorem getStatusReportsEveryBlock : Obligations.GetStatusReportsEveryBlock := by
  intro s r htakes
  rw [exec_getStatus htakes]
  refine ⟨fun hpayload => ?_, fun hpayload => ?_, ?_, fun item hitem => statusItem_at_offset 0x00 ?_⟩
  · rw [reportStatus_of_ne_nil hpayload]
  · rw [reportStatus_of_empty hpayload]
  · rw [List.length_cons, statusRecord_length]
  · simpa [itemsFrom, statusItems, slotNumbers, deferredHalts] using hitem

end Sys2Proof.Machine
end

section
/-! The step itself: one equation for each form of the queue of commands. -/

namespace Sys2Proof.Machine

/-- The idle step (notes/assumptions/8.md). -/
theorem step_of_pending_nil {s : State} (h : s.pending = []) : step s = .next s := by
  rw [step, h]

/-- The front command runs with itself already taken from the queue. -/
theorem step_of_pending_cons {c : Instr} {rest : List Instr} {s : State} (h : s.pending = c :: rest) :
    step s = exec c { s with pending := rest } := by
  rw [step, h]

/-- Settles O1: the two equations of a step; a command put in front of the queue and taken again leaves the state as it was. -/
theorem stepRunsFrontCommand : Obligations.StepRunsFrontCommand :=
  ⟨fun c s => step_of_pending_cons (s := { s with pending := c :: s.pending }) rfl, fun _ => step_of_pending_nil⟩

end Sys2Proof.Machine
end
